-- ==== Sys2Proof/Word.lean ====
section
/-! DEFINITION. The word types of the block: bytes, byte sequences, 32-bit and 64-bit words (00_scope.md R13, R14). -/

namespace Sys2Proof

/-- A byte: an unsigned integer 0..255 (R13). -/
abbrev Byte := BitVec 8

/-- A byte sequence: a finite list of bytes, possibly empty, first byte first (R13). -/
abbrev Bytes := List Byte

/-- A 32-bit word: a command word (R61) or a value of the CRC register (R111). -/
abbrev Word32 := BitVec 32

/-- A 64-bit unsigned value: the operand `V` and the result `RV` of the port (R60). -/
abbrev Word64 := BitVec 64

end Sys2Proof
end

