-- ==== Sys2Proof/Config.lean ====
section
/-! DEFINITION. What is fixed when the block is made: the constants (00_scope.md R5 to R7, 41_digest.md R110) and the
instantiation parameters (R8 to R10). No other parameter exists (R11). -/

namespace Sys2Proof
namespace Config

/-- `HEAD_SIZE` = 32 (R5). -/
abbrev headSize : Nat := 32

/-- `BOUNDARY_MARKER` = `C3 BE C3 BF`, in this byte order (R6). -/
def boundaryMarker : Bytes := [0xC3#8, 0xBE#8, 0xC3#8, 0xBF#8]

/-- `SEP1` = `3D` (R7). -/
def sep1 : Byte := 0x3D#8

/-- `SEP2` = `24` (R7). -/
def sep2 : Byte := 0x24#8

/-- The length of the shortest frame, 62 bytes: the fixed part of the header (R71, R72; 90_conflicts.md C1). -/
abbrev minFrame : Nat := 62

/-- The longest input of the FWI decoder, 8 bytes (R11, R101). -/
abbrev decodeMax : Nat := 8

/-- The largest value the FWI encoder can represent in 4 bytes (R100). -/
abbrev encodeMax : Nat := 0xFFFFFFFF

/-- The CRC polynomial, normal (most significant bit first) form (R110; PRESUMED with the other CRC parameters, log 17). -/
def crcPoly : Word32 := 0x04C11DB7#32

/-- The initial value of the CRC register (R110). -/
def crcInit : Word32 := 0xFFFFFFFF#32

/-- The final xor of the CRC (R110). -/
def crcFinalXor : Word32 := 0xFFFFFFFF#32

end Config

/-- The values of `TRAILING_POLICY` (R9). -/
inductive TrailingPolicy where
  | reject
  | ignore
  deriving DecidableEq, Repr

/-- The instantiation parameters of one block (R8 to R10). They are fixed when the block is instantiated, and no command
and no reset changes them (R28, R31). -/
structure Params where
  /-- `STRICT_FRAMING` (R8). -/
  strictFraming : Bool
  /-- `TRAILING_POLICY` (R9). -/
  trailingPolicy : TrailingPolicy
  /-- `MAX_LEN` (R10), the longest byte sequence accepted in an operand or produced in a result. -/
  maxLen : Nat
  deriving DecidableEq, Repr

/-- The parameters `State.reset` is instantiated with: the spec's defaults `STRICT_FRAMING = false` (R8) and
`TRAILING_POLICY = reject` (R9). `MAX_LEN` is OPEN (R10): 2^64 - 1, the largest value R10 admits, is a DESIGN CHOICE
(unsafe, log 2). Every statement is about every value of the parameters. -/
def Config.defaultParams : Params :=
  { strictFraming := false, trailingPolicy := .reject, maxLen := 2 ^ 64 - 1 }

end Sys2Proof
end

