-- ==== Sys2Proof/Syntax.lean ====
section
/-! DEFINITION. The commands of the block: one constructor for each of the 18 rows of spec/opcode_table.json
(30_encoding.md R62). -/

namespace Sys2Proof

/-- The 18 commands (R62). A command word carries no operand: operands travel in the request (R60), and the one
immediate, `SEL`, only picks the field of FR_READ (R64), so each field has its own constructor. -/
inductive Instr where
  /-- FWI_ENC (R102). -/
  | fwiEnc
  /-- FWI_DEC (R103). -/
  | fwiDec
  /-- CRC (R113). -/
  | crc
  /-- REV (R121). -/
  | rev
  /-- BUILD (R131). -/
  | build
  /-- SERIALIZE (R133). -/
  | serialize
  /-- PARSE (R138). -/
  | parse
  /-- ORIGINAL (R140). -/
  | original
  /-- FR_READ.TOKEN (R141). -/
  | frReadToken
  /-- FR_READ.TLEN (R141). -/
  | frReadTlen
  /-- FR_READ.NLEN (R141). -/
  | frReadNlen
  /-- FR_READ.WDIG (R141). -/
  | frReadWdig
  /-- FR_READ.HDIG (R141). -/
  | frReadHdig
  /-- FR_READ.TDIG (R141). -/
  | frReadTdig
  /-- FR_READ.HSEG (R141). -/
  | frReadHseg
  /-- FR_READ.TSEG (R141). -/
  | frReadTseg
  /-- ENCODE_FILE (R142). -/
  | encodeFile
  /-- DECODE_FILE (R143). -/
  | decodeFile
  deriving DecidableEq, Repr

end Sys2Proof
end

