-- ==== Sys2Proof/WellFormed.lean ====
section
/-! DEFINITION. What is well formed: the instantiation parameters (00_scope.md R10) and an instruction. -/

namespace Sys2Proof

/-- Legal instantiation parameters: `62 <= MAX_LEN < 2^64` (R10). Both values of `STRICT_FRAMING` (R8) and of
`TRAILING_POLICY` (R9) are legal. Commands run under other parameters too (DESIGN CHOICE, safe, log 14). -/
abbrev Params.Legal (p : Params) : Prop := 62 ≤ p.maxLen ∧ p.maxLen < 2 ^ 64

/-- Every instruction is well formed: a command carries no operand field that could be out of range (R64). What can be
ill formed is a command WORD, and the decoder refuses those by name (R65, Sys2Proof/Decode.lean). One row per
constructor, so that a later constructor with a field cannot slip past. -/
def Instr.wf : Instr → Bool
  | .fwiEnc => true
  | .fwiDec => true
  | .crc => true
  | .rev => true
  | .build => true
  | .serialize => true
  | .parse => true
  | .original => true
  | .frReadToken => true
  | .frReadTlen => true
  | .frReadNlen => true
  | .frReadWdig => true
  | .frReadHdig => true
  | .frReadTdig => true
  | .frReadHseg => true
  | .frReadTseg => true
  | .encodeFile => true
  | .decodeFile => true

end Sys2Proof
end

