-- ==== Sys2Proof/Decode.lean ====
section
/-! DEFINITION. The command word: its fields (30_encoding.md R61), the decoder over all 2^32 words (R62, R65) and the
encoder. A command word is a value on the port and has no byte order (R61). -/

namespace Sys2Proof

/-- `OP` = `CMD[7:0]` (R61). -/
def wordOp (w : Word32) : BitVec 8 := w.extractLsb' 0 8

/-- `SEL` = `CMD[11:8]` (R61), used only by FR_READ (R64). -/
def wordSel (w : Word32) : BitVec 4 := w.extractLsb' 8 4

/-- `RSV` = `CMD[31:12]`, which must be 0 (R61). -/
def wordRsv (w : Word32) : BitVec 20 := w.extractLsb' 12 20

/-- The `OP` of FR_READ (R62). -/
def opFrRead : BitVec 8 := 0x14#8

/-- The values of `OP` in the opcode map (R62). -/
def opMap : List (BitVec 8) :=
  [0x01#8, 0x02#8, 0x03#8, 0x04#8, 0x10#8, 0x11#8, 0x12#8, 0x13#8, 0x14#8, 0x20#8, 0x21#8]

/-- Why a command word is illegal: the four cases of R65. Only ILLEGAL_COMMAND is architected, and all four raise it;
where several hold, the first in this order is named (DESIGN CHOICE, safe, log 11). -/
inductive IllegalWord where
  /-- `OP` is not in the map. -/
  | opNotInMap
  /-- `RSV` is not 0. -/
  | reservedNotZero
  /-- `SEL` is not 0 with an `OP` other than FR_READ's. -/
  | selNotZero
  /-- `SEL` is 8 to 15 with FR_READ's `OP`. -/
  | selOutOfRange
  deriving DecidableEq, Repr

/-- The case of R65 an illegal word falls under. -/
def illegalReason (w : Word32) : IllegalWord :=
  if wordOp w ∉ opMap then .opNotInMap
  else if wordRsv w ≠ 0 then .reservedNotZero
  else if wordOp w ≠ opFrRead then .selNotZero
  else .selOutOfRange

/-- The opcode map (R62): each legal command word with its command. -/
def opcodeMap : List (Word32 × Instr) :=
  [ (0x00000001#32, .fwiEnc),
    (0x00000002#32, .fwiDec),
    (0x00000003#32, .crc),
    (0x00000004#32, .rev),
    (0x00000010#32, .build),
    (0x00000011#32, .serialize),
    (0x00000012#32, .parse),
    (0x00000013#32, .original) ] ++
  [ (0x00000014#32, .frReadToken),
    (0x00000114#32, .frReadTlen),
    (0x00000214#32, .frReadNlen),
    (0x00000314#32, .frReadWdig),
    (0x00000414#32, .frReadHdig),
    (0x00000514#32, .frReadTdig),
    (0x00000614#32, .frReadHseg),
    (0x00000714#32, .frReadTseg),
    (0x00000020#32, .encodeFile),
    (0x00000021#32, .decodeFile) ]

/-- The decoder compares the whole 32-bit `CMD` against the column "command word" (R62); every other word is illegal
(R65). -/
def decode (w : Word32) : Except IllegalWord Instr :=
  match opcodeMap.find? (fun row => row.1 == w) with
  | some row => .ok row.2
  | none => .error (illegalReason w)

/-- The command word of fields `OP` and `SEL` with `RSV` 0 (R61). -/
def wordOf (op : BitVec 8) (sel : BitVec 4) : Word32 := 0#20 ++ sel ++ op

/-- The command word of each command, put together from its `OP` and `SEL` of the opcode map (R62). -/
def encode : Instr → Word32
  | .fwiEnc => wordOf 0x01#8 0#4
  | .fwiDec => wordOf 0x02#8 0#4
  | .crc => wordOf 0x03#8 0#4
  | .rev => wordOf 0x04#8 0#4
  | .build => wordOf 0x10#8 0#4
  | .serialize => wordOf 0x11#8 0#4
  | .parse => wordOf 0x12#8 0#4
  | .original => wordOf 0x13#8 0#4
  | .frReadToken => wordOf 0x14#8 0#4
  | .frReadTlen => wordOf 0x14#8 1#4
  | .frReadNlen => wordOf 0x14#8 2#4
  | .frReadWdig => wordOf 0x14#8 3#4
  | .frReadHdig => wordOf 0x14#8 4#4
  | .frReadTdig => wordOf 0x14#8 5#4
  | .frReadHseg => wordOf 0x14#8 6#4
  | .frReadTseg => wordOf 0x14#8 7#4
  | .encodeFile => wordOf 0x20#8 0#4
  | .decodeFile => wordOf 0x21#8 0#4

/-- The command word that the `nbits` bits `w` of an opcode-table row stand for: bits above `nbits` are 0. A command
word has exactly 32 bits (R67), so more bits than 32 are no command word. -/
def tableWord (nbits w : Nat) : Option Word32 :=
  if nbits ≤ 32 then some (BitVec.ofNat 32 (w % 2 ^ nbits)) else none

/-- What the decoder reads from an instruction's bits as spec/opcode_table.json numbers them. -/
def decodeTableWord (nbits w : Nat) : Option Instr :=
  match tableWord nbits w with
  | some cmd => (decode cmd).toOption
  | none => none

end Sys2Proof
end

