-- ==== Sys2Proof/Machine/State.lean ====
section
/-! DEFINITION. The state of the block (10_state.md) and the values that cross its port (30_encoding.md R60). -/

namespace Sys2Proof.Machine
open Sys2Proof

/-- A Frame: the record held in the frame register `FR` (R21). The widths of the digests (4 bytes), of the head segment
(32 bytes) and the two length relations are the invariant `Frame.WellFormed` of Sys2Proof/Safety.lean (R21, R22; DESIGN
CHOICE, safe, log 16). The
boundary marker is a constant, not a field (90_conflicts.md C8). -/
structure Frame where
  /-- `token`, stored verbatim. -/
  token : Bytes
  /-- `token_length`, the count of bytes in `token`. -/
  tokenLength : Nat
  /-- `tail_length`, the count of bytes in the tail segment. -/
  tailLength : Nat
  /-- `whole_digest`, 4 bytes. -/
  wholeDigest : Bytes
  /-- `head_digest`, 4 bytes. -/
  headDigest : Bytes
  /-- `tail_digest`, 4 bytes. -/
  tailDigest : Bytes
  /-- `head_segment`, 32 bytes, stored reversed. -/
  headSegment : Bytes
  /-- `tail_segment`, stored reversed. -/
  tailSegment : Bytes
  deriving DecidableEq, Repr

/-- A request `{CMD, A, B, V}` (R60). Every field always has a value. -/
structure Request where
  cmd : Word32
  a : Bytes
  b : Bytes
  v : Word64
  deriving DecidableEq, Repr

/-- The error kinds (R170). -/
inductive ErrorKind where
  | formatError
  | encodingError
  /-- Never raised: file operations are outside the core (R170). -/
  | ioError
  | illegalCommand
  | noFrame
  | operandError
  | capacityError
  deriving DecidableEq, Repr

/-- The result of a command that succeeds (R60, R63): no result, bytes `R`, or a 64-bit value `RV`. -/
inductive Result where
  | none
  | bytes (r : Bytes)
  | value (rv : Word64)
  deriving DecidableEq, Repr

/-- A response, written as `ok (result)` or `err (code)` (R60). -/
inductive Response where
  | ok (res : Result)
  | err (e : ErrorKind)
  deriving DecidableEq, Repr

/-- What the host can do to the block between two commands: present a request (R60) or assert reset (R190). -/
inductive PortInput where
  | request (r : Request)
  | reset
  deriving DecidableEq, Repr

/-- The state. `fr` and `fv` are the whole architectural state (R20). The other fields are not state of the block: the
instantiation parameters, fixed (R20, R28; DESIGN CHOICE, log 1), and the values exchanged over the port (R20, R60;
DESIGN CHOICE, log 3), which stand here because `exec` and `step` take nothing but a state. -/
structure State where
  /-- The frame register `FR` (R21). While `FV = 0` it holds no value (R24). `none` is the spec's own
  "holds no value". -/
  fr : Option Frame
  /-- The frame-valid flag `FV` (R23). -/
  fv : Bool
  /-- The instantiation parameters (R8 to R10). -/
  params : Params
  /-- The request being performed (R60). Each command gets a new one, and none reads an earlier one. -/
  request : Request
  /-- What the host has still to present, next first (R50: performed in the order issued). -/
  inputs : List PortInput
  /-- The responses sent, oldest first (R60). No command reads them (R27, R176). -/
  responses : List Response
  deriving DecidableEq, Repr

/-- Why the machine stops with a fault. No run from reset reaches one. -/
inductive Fault where
  /-- A read of `FR` that its guard lets through although `FR` holds no value: `FV = 1` and `fr = none`. Raised by
  SERIALIZE, ORIGINAL and FR_READ.* in such a state only, which no run reaches. 93_implementation_defined.md U8: "If a
  model ever reached one, it must fault, not return zero." Safe (log 5). -/
  | unguardedFrameRead
  deriving DecidableEq, Repr

/-- Why the model gives an instruction no meaning. -/
inductive Refusal where
  /-- An instruction without a meaning yet, raised by no arm: every command is modelled. Safe. -/
  | notModelled (mnemonic : String)
  deriving DecidableEq, Repr

/-- The request with every field empty or zero. -/
def Request.blank : Request := { cmd := 0#32, a := [], b := [], v := 0#64 }

/-- The block right after reset (R31, R190), instantiated with `p`: `FV = 0`, `FR` holds no value. Nothing has been
presented and nothing answered yet (DESIGN CHOICE, log 3). -/
def State.resetWith (p : Params) : State :=
  { fr := Option.none, fv := false, params := p, request := Request.blank, inputs := [], responses := [] }

/-- The block right after reset, with the default parameters (R8, R9; `MAX_LEN` a DESIGN CHOICE, log 2). -/
def State.reset : State := State.resetWith Config.defaultParams

end Sys2Proof.Machine
end

