-- ==== Sys2Proof/Machine/Flags.lean ====
section
/-! DEFINITION. The block's one flag `FV` and the frame register it guards: every write and the one read of the pair
(10_state.md R20 to R24). -/

namespace Sys2Proof.Machine
open Sys2Proof

/-- `FR <- F; FV <- 1` (R23): the whole record at once (R25), whatever the pair held before (R193). -/
def State.loadFrame (s : State) (f : Frame) : State := { s with fr := some f, fv := true }

/-- `FV <- 0` (R23): the frame is consumed, and `FR` holds no value from here on (R24; that R133 says "left unchanged" of
the unreadable register is log 4, DEDUCED). -/
def State.consumeFrame (s : State) : State := { s with fr := none, fv := false }

/-- Reset (R190): `FV <- 0` and `FR` holds no value; the parameters do not change, and there is no response. -/
def State.clearFrame (s : State) : State := { s with fr := none, fv := false }

/-- What `FR` holds for a reader: nothing while `FV = 0` (R24). -/
def State.frame (s : State) : Option Frame := if s.fv then s.fr else none

end Sys2Proof.Machine
end

