-- ==== Sys2Proof/Machine/Ops.lean ====
section
/-! DEFINITION. The operations every command is made of: answering a request, raising an error (60_exceptions.md R170 to
R172), returning a result (20_memory.md R41), reading the guarded frame register, positional reads (R42). -/

namespace Sys2Proof.Machine
open Sys2Proof

/-- How a command ends. -/
abbrev Answer := Host.Outcome State Fault Refusal

/-- The code of an error kind in the field `ERR` (R170). -/
def ErrorKind.code : ErrorKind → BitVec 4
  | .formatError => 1#4
  | .encodingError => 2#4
  | .ioError => 3#4
  | .illegalCommand => 4#4
  | .noFrame => 5#4
  | .operandError => 6#4
  | .capacityError => 7#4

/-- The field `ERR` of a response; 0 means success (R60). -/
def Response.errCode : Response → BitVec 4
  | .ok _ => 0#4
  | .err e => e.code

/-- The field `R` of a response: present only on success of a command that returns bytes (R60). -/
def Response.bytes? : Response → Option Bytes
  | .ok (.bytes r) => some r
  | .ok .none => none
  | .ok (.value _) => none
  | .err _ => none

/-- The field `RV` of a response: present only on success of a command that returns a value (R60). -/
def Response.value? : Response → Option Word64
  | .ok (.value rv) => some rv
  | .ok .none => none
  | .ok (.bytes _) => none
  | .err _ => none

/-- Send the response of the command being performed (R60). -/
def State.respond (s : State) (r : Response) : State := { s with responses := s.responses ++ [r] }

/-- `raise E` (R15, R172): the command ends with error kind `E`. It writes no state and returns no result. This is all
the block has of an exception (R175): no saved state, no mode, no vector, nothing to return from (R176). -/
def raise (e : ErrorKind) (s : State) : Answer := .next (s.respond (.err e))

/-- Go on with the value of a function that may fail, or raise its error. -/
def orRaise {α : Type} (x : Except ErrorKind α) (s : State) (k : α → Answer) : Answer :=
  match x with
  | .ok v => k v
  | .error e => raise e s

/-- Success without a result, in the state `t` the command wrote (R63). -/
def returnNone (t : State) : Answer := .next (t.respond (.ok .none))

/-- `return RV = v` (R15), in the state `t` the command wrote. -/
def returnValue (v : Word64) (t : State) : Answer := .next (t.respond (.ok (.value v)))

/-- `return R = r` (R15) of a command that started in `s` and writes `t` on success. A result longer than `MAX_LEN`
raises CAPACITY_ERROR instead, and no state is written (R41, R173 item 5; for every command that returns bytes,
log 7). -/
def returnBytes (r : Bytes) (s t : State) : Answer :=
  if s.params.maxLen < r.length then raise .capacityError s else .next (t.respond (.ok (.bytes r)))

/-- Read `FR` (R23, R24): NO_FRAME while `FV = 0`. `FV = 1` without a value in `FR` is a fault (log 5). -/
def withFrame (s : State) (k : Frame → Answer) : Answer :=
  if s.fv then
    match s.fr with
    | some f => k f
    | none => .fault .unguardedFrameRead
  else raise .noFrame s

/-- `MemRead(s, off, n)` = `s[off ..< off+n]` (R15), used only where `off + n <= |s|` has been checked (R42). -/
def memRead (s : Bytes) (off n : Nat) : Bytes := (s.drop off).take n

/-- Take the next request from the port: it becomes the request being performed (R50, R60). -/
def State.accept (s : State) (r : Request) (rest : List PortInput) : State :=
  { s with request := r, inputs := rest }

/-- Take a reset from the inputs: it acts between two commands (R190). -/
def State.acceptReset (s : State) (rest : List PortInput) : State := { s with inputs := rest }.clearFrame

end Sys2Proof.Machine
end

