-- ==== Sys2Proof/Machine/Operands.lean ====
section
/-! DEFINITION. The operands of a command: `A`, `B` and `V` of its request (30_encoding.md R60, R63), and the capacity
check of the buffers it uses (20_memory.md R41). -/

namespace Sys2Proof.Machine
open Sys2Proof

/-- The operand `A` of the request being performed. -/
abbrev State.opA (s : State) : Bytes := s.request.a

/-- The operand `B` of the request being performed. -/
abbrev State.opB (s : State) : Bytes := s.request.b

/-- The operand `V` of the request being performed, a full 64-bit unsigned value (R64). -/
abbrev State.opV (s : State) : Word64 := s.request.v

/-- Use the buffer `buf` of the request: CAPACITY_ERROR if it is longer than `MAX_LEN`, before anything else that could
fail (R41, R173 item 2). -/
def useBuffer (buf : Bytes) (s : State) (k : Answer) : Answer :=
  if s.params.maxLen < buf.length then raise .capacityError s else k

/-- A command that uses `A` (R63). -/
def useA (s : State) (k : Answer) : Answer := useBuffer s.opA s k

/-- A command that uses `A` and `B` (R63). PARSE and DECODE_FILE are listed there with `B`, though they never look at
its bytes (R137; DEDUCED, log 6). -/
def useAB (s : State) (k : Answer) : Answer := useBuffer s.opA s (useBuffer s.opB s k)

end Sys2Proof.Machine
end

