-- ==== Sys2Proof/Machine/Fwi.lean ====
section
/-! DEFINITION. The FWI unit (40_fixed_width_int.md): the big-endian encoder and decoder, FWI_ENC and FWI_DEC. -/

namespace Sys2Proof.Machine
open Sys2Proof

/-- The 4 bytes of a 32-bit word, most significant first (R43, R100). -/
def wordBytes (w : Word32) : Bytes :=
  [w.extractLsb' 24 8, w.extractLsb' 16 8, w.extractLsb' 8 8, w.extractLsb' 0 8]

/-- `be4(v)` (R100): 4 bytes, or ENCODING_ERROR if `v > 0xFFFFFFFF`. -/
def be4 (v : Nat) : Except ErrorKind Bytes :=
  if Config.encodeMax < v then .error .encodingError else .ok (wordBytes (BitVec.ofNat 32 v))

/-- `zeros(n)` (R13). -/
def zeros (n : Nat) : Bytes := List.replicate n 0#8

/-- The bytes read as one unsigned integer, most significant first (R43). -/
def bigEndian (p : Bytes) : Nat := p.foldl (fun acc b => acc * 256 + b.toNat) 0

/-- `unbe(s)` (R101), for `|s| <= 8`: left-padded with zero bytes to 8 bytes and read as a big-endian integer. -/
def unbe (s : Bytes) : Nat := bigEndian (zeros (Config.decodeMax - s.length) ++ s)

/-- FWI_ENC (R102): `return R = be4(V)`. -/
def execFwiEnc (s : State) : Answer :=
  orRaise (be4 s.opV.toNat) s fun r => returnBytes r s s

/-- FWI_DEC (R103): OPERAND_ERROR if `|A| > 8`, else `return RV = unbe(A)`. -/
def execFwiDec (s : State) : Answer :=
  useA s (if Config.decodeMax < s.opA.length then raise .operandError s
    else returnValue (BitVec.ofNat 64 (unbe s.opA)) s)

end Sys2Proof.Machine
end

