-- ==== Sys2Proof/Machine/Crc.lean ====
section
/-! DEFINITION. The CRC unit (41_digest.md): CRC-32/BZIP2, the digest and CRC. -/

namespace Sys2Proof.Machine
open Sys2Proof

/-- One turn of the inner loop (R111): shift left, and xor the polynomial in if bit 31 was 1. -/
def crcShift (c : Word32) : Word32 :=
  if c.getLsbD 31 then (c <<< 1) ^^^ Config.crcPoly else c <<< 1

/-- `n` turns of the inner loop. -/
def crcShifts : Nat → Word32 → Word32
  | 0, c => c
  | n + 1, c => crcShifts n (crcShift c)

/-- Feed one byte (R111): it enters at the top, bit 7 first, then 8 turns. -/
def crcFeed (c : Word32) (b : Byte) : Word32 := crcShifts 8 (c ^^^ (b.setWidth 32 <<< 24))

/-- `k c` (`settle_eq` in Sys2Proof/Laws/Codec.lean), written so that Lean's kernel works the register's value out before
it goes on, and a CRC of a long sequence can be evaluated. -/
def settle {α : Type} (c : Word32) (k : Word32 → α) : α :=
  match c.toNat with
  | 0 => k 0#32
  | n + 1 => k (BitVec.ofNat 32 (n + 1))

/-- The working register after the bytes, in order, first byte first (R111); `crcRegister_eq` says it is the fold of
`crcFeed`. -/
def crcRegister : Bytes → Word32 → Word32
  | [], c => c
  | b :: rest, c => settle (crcFeed c b) (crcRegister rest)

/-- `crc32_bzip2(s)` (R111). The working register is set at the start of every evaluation and discarded at its end
(R115). -/
def crc32Bzip2 (s : Bytes) : Word32 := crcRegister s Config.crcInit ^^^ Config.crcFinalXor

/-- `Digest(s)` = `be4(crc32_bzip2(s))`, which never fails (R112). -/
def digest (s : Bytes) : Bytes := wordBytes (crc32Bzip2 s)

/-- CRC (R113): `return R = Digest(A)`. -/
def execCrc (s : State) : Answer := useA s (returnBytes (digest s.opA) s s)

end Sys2Proof.Machine
end

