-- ==== Sys2Proof/Machine/Rev.lean ====
section
/-! DEFINITION. The REV unit (42_segment_reversal.md): whole-segment byte reversal and REV. -/

namespace Sys2Proof.Machine
open Sys2Proof

/-- `rev(s)` (R120): the bytes in reverse order; the bits inside a byte stay. -/
def rev (s : Bytes) : Bytes := s.reverse

/-- REV (R121): `return R = rev(A)`. -/
def execRev (s : State) : Answer := useA s (returnBytes (rev s.opA) s s)

end Sys2Proof.Machine
end

