-- ==== Sys2Proof/Machine/Codec.lean ====
section
/-! DEFINITION. The pure functions of the frame codec (43_frame_codec.md section 1): build, serialize, parse, original. -/

namespace Sys2Proof.Machine
open Sys2Proof

/-- The head of an original, its first 32 bytes (R130 step 1). -/
def headOf (o : Bytes) : Bytes := o.take Config.headSize

/-- The tail of an original, all bytes after the head (R130 step 1). -/
def tailOf (o : Bytes) : Bytes := o.drop Config.headSize

/-- The Frame of an original and a token (R130): digests of the bytes before reversal, segments stored reversed. -/
def frameOf (o t : Bytes) : Frame :=
  { token := t
    tokenLength := t.length
    tailLength := (tailOf o).length
    wholeDigest := digest o
    headDigest := digest (headOf o)
    tailDigest := digest (tailOf o)
    headSegment := rev (headOf o)
    tailSegment := rev (tailOf o) }

/-- `build(o, t)` (R130): FORMAT_ERROR if `|o| < 32`. The lengths are not checked here but in `serialize`. -/
def build (o t : Bytes) : Except ErrorKind Frame :=
  if o.length < Config.headSize then .error .formatError else .ok (frameOf o t)

/-- The bytes of a frame whose two length fields are `lt` and `ln`, in the order of R69. The separators and markers are
always the constants (R132). -/
def layout (lt ln : Bytes) (f : Frame) : Bytes :=
  lt ++ [Config.sep1] ++ ln ++ [Config.sep2] ++ f.token ++ Config.boundaryMarker
    ++ f.wholeDigest ++ f.headDigest ++ f.tailDigest
    ++ f.headSegment ++ Config.boundaryMarker ++ f.tailSegment

/-- `serialize(F)` (R132): both lengths are encoded, ENCODING_ERROR if either does not fit, before any byte is
returned. -/
def serialize (f : Frame) : Except ErrorKind Bytes :=
  match be4 f.tokenLength with
  | .error e => .error e
  | .ok lt =>
    match be4 f.tailLength with
    | .error e => .error e
    | .ok ln => .ok (layout lt ln f)

/-- `T`, the token length a frame buffer declares (R134). -/
def declaredToken (p : Bytes) : Nat := unbe (memRead p 0 4)

/-- `N`, the tail length a frame buffer declares (R134). -/
def declaredTail (p : Bytes) : Nat := unbe (memRead p 5 4)

/-- What `strict_check` rejects (R135): a separator or a marker that is not its constant. -/
def framingDrift (p : Bytes) : Bool :=
  memRead p 4 1 != [Config.sep1] || memRead p 9 1 != [Config.sep2]
    || memRead p (10 + declaredToken p) 4 != Config.boundaryMarker
    || memRead p (58 + declaredToken p) 4 != Config.boundaryMarker

/-- The Frame read at the offsets of R70 (R134), for a buffer that passed the checks. -/
def frameAt (p : Bytes) : Frame :=
  { token := memRead p 10 (declaredToken p)
    tokenLength := declaredToken p
    tailLength := declaredTail p
    wholeDigest := memRead p (14 + declaredToken p) 4
    headDigest := memRead p (18 + declaredToken p) 4
    tailDigest := memRead p (22 + declaredToken p) 4
    headSegment := memRead p (26 + declaredToken p) 32
    tailSegment := memRead p (62 + declaredToken p) (declaredTail p) }

/-- `parse(P)` (R134 to R136). Lengths are naturals and no sum wraps (R14). -/
def parse (c : Params) (p : Bytes) : Except ErrorKind Frame :=
  if p.length < Config.minFrame then .error .formatError
  else if p.length < 62 + declaredToken p then .error .formatError
  else if p.length < 62 + declaredToken p + declaredTail p then .error .formatError
  else if 62 + declaredToken p + declaredTail p < p.length ∧ c.trailingPolicy = .reject then .error .formatError
  else if c.strictFraming && framingDrift p then .error .formatError
  else .ok (frameAt p)

/-- `original(F)` (R139): each segment reversed back, head before tail. It never fails. -/
def original (f : Frame) : Bytes := rev f.headSegment ++ rev f.tailSegment

end Sys2Proof.Machine
end

