-- ==== Sys2Proof/Machine/FileCommands.lean ====
section
/-! DEFINITION. The compositions (43_frame_codec.md R142, R143): ENCODE_FILE and DECODE_FILE, which leave `FR` and `FV`
alone (R196). -/

namespace Sys2Proof.Machine
open Sys2Proof

/-- ENCODE_FILE (R142): `serialize(build(A, B))`. -/
def execEncodeFile (s : State) : Answer :=
  useAB s (orRaise (build s.opA s.opB) s fun f => orRaise (serialize f) s fun r => returnBytes r s s)

/-- DECODE_FILE (R143): `original(parse(A))`. The token in `B` is never compared (R137). -/
def execDecodeFile (s : State) : Answer :=
  useAB s (orRaise (parse s.params s.opA) s fun f => returnBytes (original f) s s)

end Sys2Proof.Machine
end

