-- ==== Sys2Proof/Machine/FrameCommands.lean ====
section
/-! DEFINITION. The commands that apply the codec to the frame register (43_frame_codec.md section 2): BUILD, SERIALIZE,
PARSE, ORIGINAL. -/

namespace Sys2Proof.Machine
open Sys2Proof

/-- BUILD (R131): `FR <- build(A, B); FV <- 1`. -/
def execBuild (s : State) : Answer :=
  useAB s (orRaise (build s.opA s.opB) s fun f => returnNone (s.loadFrame f))

/-- SERIALIZE (R133): emit the frame in `FR` and consume it. -/
def execSerialize (s : State) : Answer :=
  withFrame s fun f => orRaise (serialize f) s fun r => returnBytes r s s.consumeFrame

/-- PARSE (R138): `FR <- parse(A); FV <- 1`. The expected token in `B` is never compared (R137). -/
def execParse (s : State) : Answer :=
  useAB s (orRaise (parse s.params s.opA) s fun f => returnNone (s.loadFrame f))

/-- ORIGINAL (R140): recover the original from `FR` and consume the frame. -/
def execOriginal (s : State) : Answer :=
  withFrame s fun f => returnBytes (original f) s s.consumeFrame

end Sys2Proof.Machine
end

