-- ==== Sys2Proof/Machine/FrameRead.lean ====
section
/-! DEFINITION. FR_READ (43_frame_codec.md R141): read one field of the frame register without consuming it. -/

namespace Sys2Proof.Machine
open Sys2Proof

/-- Read a field of `FR` that is a byte sequence (R141). -/
def readBytes (field : Frame → Bytes) (s : State) : Answer :=
  withFrame s fun f => returnBytes (field f) s s

/-- Read a field of `FR` that is a length (R141). It fits in `RV` in every state a run reaches, because a length is at
most `MAX_LEN < 2^64`; elsewhere its low 64 bits are returned (DESIGN CHOICE, log 13). -/
def readLength (field : Frame → Nat) (s : State) : Answer :=
  withFrame s fun f => returnValue (BitVec.ofNat 64 (field f)) s

/-- FR_READ.TOKEN (R141, SEL 0). -/
def execFrReadToken (s : State) : Answer := readBytes Frame.token s

/-- FR_READ.TLEN (R141, SEL 1). -/
def execFrReadTlen (s : State) : Answer := readLength Frame.tokenLength s

/-- FR_READ.NLEN (R141, SEL 2). -/
def execFrReadNlen (s : State) : Answer := readLength Frame.tailLength s

/-- FR_READ.WDIG (R141, SEL 3). -/
def execFrReadWdig (s : State) : Answer := readBytes Frame.wholeDigest s

/-- FR_READ.HDIG (R141, SEL 4). -/
def execFrReadHdig (s : State) : Answer := readBytes Frame.headDigest s

/-- FR_READ.TDIG (R141, SEL 5). -/
def execFrReadTdig (s : State) : Answer := readBytes Frame.tailDigest s

/-- FR_READ.HSEG (R141, SEL 6): the stored (reversed) form. -/
def execFrReadHseg (s : State) : Answer := readBytes Frame.headSegment s

/-- FR_READ.TSEG (R141, SEL 7): the stored (reversed) form. -/
def execFrReadTseg (s : State) : Answer := readBytes Frame.tailSegment s

end Sys2Proof.Machine
end

