-- ==== Sys2Proof/Machine/Dispatch.lean ====
section
/-! DEFINITION. One arm per command: its meaning. -/

namespace Sys2Proof.Machine
open Sys2Proof

def exec (i : Instr) (s : State) : Host.Outcome State Fault Refusal :=
  match i with
  | .fwiEnc => Sys2Proof.Machine.execFwiEnc s
  | .fwiDec => Sys2Proof.Machine.execFwiDec s
  | .crc => Sys2Proof.Machine.execCrc s
  | .rev => Sys2Proof.Machine.execRev s
  | .build => Sys2Proof.Machine.execBuild s
  | .serialize => Sys2Proof.Machine.execSerialize s
  | .parse => Sys2Proof.Machine.execParse s
  | .original => Sys2Proof.Machine.execOriginal s
  | .frReadToken => Sys2Proof.Machine.execFrReadToken s
  | .frReadTlen => Sys2Proof.Machine.execFrReadTlen s
  | .frReadNlen => Sys2Proof.Machine.execFrReadNlen s
  | .frReadWdig => Sys2Proof.Machine.execFrReadWdig s
  | .frReadHdig => Sys2Proof.Machine.execFrReadHdig s
  | .frReadTdig => Sys2Proof.Machine.execFrReadTdig s
  | .frReadHseg => Sys2Proof.Machine.execFrReadHseg s
  | .frReadTseg => Sys2Proof.Machine.execFrReadTseg s
  | .encodeFile => Sys2Proof.Machine.execEncodeFile s
  | .decodeFile => Sys2Proof.Machine.execDecodeFile s

end Sys2Proof.Machine
end

