-- ==== Sys2Proof/Machine/Step.lean ====
section
/-! DEFINITION. One step: the block takes the next input of its port and performs it whole (00_scope.md R12,
20_memory.md R50). -/

namespace Sys2Proof.Machine
open Sys2Proof

/-- One step. A request with a legal command word runs its command on the request's operands; an illegal word raises
ILLEGAL_COMMAND and nothing else happens (R65). A reset acts between two commands and sends no response (R190; that it is
an element of the inputs is a DESIGN CHOICE, safe, log 9). With nothing presented the block waits: the state does not change (DESIGN CHOICE, log 8). -/
def step (s : State) : Host.Outcome State Fault Refusal :=
  match s.inputs with
  | [] => .next s
  | .reset :: rest => .next (s.acceptReset rest)
  | .request r :: rest =>
    match decode r.cmd with
    | .ok i => exec i (s.accept r rest)
    | .error _ => raise .illegalCommand (s.accept r rest)

/-- `s` with the command word of the `nbits` bits `w` in the request the next step takes. A request already presented
keeps its operands; where there is none, one with empty operands is put in front (log 10). A width that is no command
word's leaves `s` as it is. -/
def State.withFetchWord (s : State) (nbits w : Nat) : State :=
  match tableWord nbits w with
  | none => s
  | some cmd =>
    match s.inputs with
    | .request r :: rest => { s with inputs := .request { r with cmd := cmd } :: rest }
    | .reset :: rest => { s with inputs := .request { Request.blank with cmd := cmd } :: .reset :: rest }
    | [] => { s with inputs := [.request { Request.blank with cmd := cmd }] }

end Sys2Proof.Machine
end

