-- ==== Sys2Proof/Safety.lean ====
section
/-! DEFINITION. What a safe run is, and the terms the statements use: the invariant of the frame register (10_state.md
R22), which command uses what (30_encoding.md R63), what PARSE accepts (43_frame_codec.md R134 to R136), and the order of
errors (60_exceptions.md R173). -/

namespace Sys2Proof

/-- The commands that read `FR` and raise NO_FRAME while `FV = 0`: SERIALIZE, ORIGINAL and FR_READ.* (R23). -/
def Instr.needsFrame : Instr → Bool
  | .serialize | .original => true
  | .frReadToken | .frReadTlen | .frReadNlen | .frReadWdig => true
  | .frReadHdig | .frReadTdig | .frReadHseg | .frReadTseg => true
  | .fwiEnc | .fwiDec | .crc | .rev | .build | .parse | .encodeFile | .decodeFile => false

/-- The commands R63 lists `A` as read by. -/
def Instr.usesA : Instr → Bool
  | .fwiDec | .crc | .rev | .build | .parse | .encodeFile | .decodeFile => true
  | .fwiEnc | .serialize | .original => false
  | .frReadToken | .frReadTlen | .frReadNlen | .frReadWdig => false
  | .frReadHdig | .frReadTdig | .frReadHseg | .frReadTseg => false

/-- The commands R63 lists `B` as read by; for PARSE and DECODE_FILE see log 6. -/
def Instr.usesB : Instr → Bool
  | .build | .parse | .encodeFile | .decodeFile => true
  | .fwiEnc | .fwiDec | .crc | .rev | .serialize | .original => false
  | .frReadToken | .frReadTlen | .frReadNlen | .frReadWdig => false
  | .frReadHdig | .frReadTdig | .frReadHseg | .frReadTseg => false

/-- The one command R63 lists `V` as read by (R64). -/
def Instr.usesV (i : Instr) : Bool := i == .fwiEnc

/-- The commands that write `FR` and set `FV` on success (R63): BUILD and PARSE. -/
def Instr.loadsFrame (i : Instr) : Bool := i == .build || i == .parse

/-- The commands that clear `FV` on success (R63): SERIALIZE and ORIGINAL. -/
def Instr.consumesFrame (i : Instr) : Bool := i == .serialize || i == .original

namespace Machine

/-- The widths of R21 and the relations of R22 (a). -/
abbrev Frame.WellFormed (f : Frame) : Prop :=
  f.tokenLength = f.token.length ∧ f.headSegment.length = 32 ∧ f.tailSegment.length = f.tailLength
    ∧ f.wholeDigest.length = 4 ∧ f.headDigest.length = 4 ∧ f.tailDigest.length = 4

/-- A frame whose fields came from buffers no longer than `n` bytes (R140, R141). -/
abbrev Frame.FitsIn (f : Frame) (n : Nat) : Prop := f.tokenLength ≤ n ∧ 32 + f.tailLength ≤ n

/-- The invariant: legal parameters (R10); while `FV = 1` the register holds a well-formed frame that came from buffers
within `MAX_LEN` (R22, R23, R141), and while `FV = 0` it holds no value (R24). -/
def State.Inv (s : State) : Prop :=
  s.params.Legal ∧
    (s.fv = true → ∃ f, s.fr = some f ∧ f.WellFormed ∧ f.FitsIn s.params.maxLen) ∧
    (s.fv = false → s.fr = none)

/-- What PARSE accepts (R134 to R136): long enough for the header and for both declared lengths, nothing after the
declared frame unless trailing bytes are ignored, and the constant separators and markers if framing is strict. -/
def ParseAccepts (c : Params) (p : Bytes) : Prop :=
  62 ≤ p.length ∧
  62 + unbe (p.take 4) + unbe ((p.drop 5).take 4) ≤ p.length ∧
  (c.trailingPolicy = .reject → p.length = 62 + unbe (p.take 4) + unbe ((p.drop 5).take 4)) ∧
  (c.strictFraming = true →
    p[4]? = some 0x3D#8 ∧ p[9]? = some 0x24#8 ∧
    (p.drop (10 + unbe (p.take 4))).take 4 = [0xC3#8, 0xBE#8, 0xC3#8, 0xBF#8] ∧
    (p.drop (58 + unbe (p.take 4))).take 4 = [0xC3#8, 0xBE#8, 0xC3#8, 0xBF#8])

/-- A command ends in a response with a result. -/
def Response.isOk : Response → Bool
  | .ok _ => true
  | .err _ => false

/-- A command's own errors (R173 item 4): the first that applies, in the order its rule lists them. -/
def ownError (i : Instr) (s : State) (e : ErrorKind) : Prop :=
  match i with
  | .fwiEnc => e = .encodingError ∧ 0xFFFFFFFF < s.request.v.toNat
  | .fwiDec => e = .operandError ∧ 8 < s.request.a.length
  | .build => e = .formatError ∧ s.request.a.length < 32
  | .serialize => e = .encodingError ∧
      ∃ f, s.fr = some f ∧ (0xFFFFFFFF < f.tokenLength ∨ 0xFFFFFFFF < f.tailLength)
  | .parse | .decodeFile => e = .formatError ∧ ¬ ParseAccepts s.params s.request.a
  | .encodeFile =>
      (e = .formatError ∧ s.request.a.length < 32) ∨
      (e = .encodingError ∧ 32 ≤ s.request.a.length ∧
        (0xFFFFFFFF < s.request.b.length ∨ 0xFFFFFFFF < s.request.a.length - 32))
  | .crc | .rev | .original => False
  | .frReadToken | .frReadTlen | .frReadNlen | .frReadWdig => False
  | .frReadHdig | .frReadTdig | .frReadHseg | .frReadTseg => False

/-- A result longer than `MAX_LEN` (R173 item 5): only SERIALIZE and ENCODE_FILE can have one (R133, R142). -/
def resultTooLong (i : Instr) (s : State) : Prop :=
  (i = .serialize ∧ ∃ f, s.fr = some f ∧ s.params.maxLen < 62 + f.tokenLength + f.tailLength) ∨
  (i = .encodeFile ∧ s.params.maxLen < 30 + s.request.b.length + s.request.a.length)

/-- A request buffer the command uses is longer than `MAX_LEN` (R173 item 2). -/
def operandTooLong (i : Instr) (s : State) : Prop :=
  (i.usesA = true ∧ s.params.maxLen < s.request.a.length) ∨
  (i.usesB = true ∧ s.params.maxLen < s.request.b.length)

/-- `e` is the first error that applies to the command, in the order of R173 (item 1, the command word, is the step's).
-/
def FirstError (i : Instr) (s : State) (e : ErrorKind) : Prop :=
  (operandTooLong i s ∧ e = .capacityError) ∨
  (¬ operandTooLong i s ∧ i.needsFrame = true ∧ s.fv = false ∧ e = .noFrame) ∨
  (¬ operandTooLong i s ∧ ¬ (i.needsFrame = true ∧ s.fv = false) ∧ ownError i s e) ∨
  (¬ operandTooLong i s ∧ ¬ (i.needsFrame = true ∧ s.fv = false) ∧ (∀ e', ¬ ownError i s e') ∧
    resultTooLong i s ∧ e = .capacityError)

/-- How many of the inputs still to come are requests. -/
def requestCount : List PortInput → Nat
  | [] => 0
  | .request _ :: rest => requestCount rest + 1
  | .reset :: rest => requestCount rest

end Machine
end Sys2Proof
end

