-- ==== Sys2Proof/Certificates/Slice0/Obligations.lean ====
section
/-! DEFINITION. The statements for the provers. Each docstring names the rule or the sentence of spec/ it formalises.
Statements over all states hold for every value of the instantiation parameters. -/

open Sys2Proof Sys2Proof.Machine

/-! ## Decoding and the step -/

/-- Five command words, one of each unit, written out from the fields OP and SEL of R62. A sanity statement. -/
def Obligations.SampleWordsDecode : Prop :=
  decode 0b00000000000000000000_0000_00000011#32 = .ok .crc ∧
  decode 0b00000000000000000000_0000_00000001#32 = .ok .fwiEnc ∧
  decode 0b00000000000000000000_0000_00000100#32 = .ok .rev ∧
  decode 0b00000000000000000000_0000_00010010#32 = .ok .parse ∧
  decode 0b00000000000000000000_0111_00010100#32 = .ok .frReadTseg

/-- R62: the 18 command words, and no other word, decode, each to its command. -/
def Obligations.DecodeAcceptsExactlyTheOpcodeMap : Prop :=
  ∀ (w : Word32) (i : Instr), decode w = .ok i ↔
    (w, i) ∈ ([(0x00000001#32, .fwiEnc), (0x00000002#32, .fwiDec), (0x00000003#32, .crc), (0x00000004#32, .rev),
      (0x00000010#32, .build), (0x00000011#32, .serialize), (0x00000012#32, .parse), (0x00000013#32, .original),
      (0x00000014#32, .frReadToken), (0x00000114#32, .frReadTlen), (0x00000214#32, .frReadNlen),
      (0x00000314#32, .frReadWdig), (0x00000414#32, .frReadHdig), (0x00000514#32, .frReadTdig),
      (0x00000614#32, .frReadHseg), (0x00000714#32, .frReadTseg), (0x00000020#32, .encodeFile),
      (0x00000021#32, .decodeFile)] : List (Word32 × Instr))

/-- Decoding and encoding agree in both directions (R62: "Each legal command has exactly one command word."). -/
def Obligations.DecodeAndEncodeAgree : Prop :=
  (∀ i : Instr, i.wf = true → decode (encode i) = .ok i) ∧
  (∀ (w : Word32) (i : Instr), decode w = .ok i → w = encode i)

/-- R65: a word is illegal exactly in the four cases, and a request with an illegal word raises ILLEGAL_COMMAND while
FR, FV and the parameters stay as they were and no result is returned. -/
def Obligations.IllegalWordsRaiseIllegalCommand : Prop :=
  (∀ w : Word32, (∃ why, decode w = .error why) ↔
    (w.extractLsb' 0 8 ∉ [0x01#8, 0x02#8, 0x03#8, 0x04#8, 0x10#8, 0x11#8, 0x12#8, 0x13#8, 0x14#8, 0x20#8, 0x21#8] ∨
      w.extractLsb' 12 20 ≠ 0#20 ∨
      (w.extractLsb' 8 4 ≠ 0#4 ∧ w.extractLsb' 0 8 ≠ 0x14#8) ∨
      (8 ≤ (w.extractLsb' 8 4).toNat ∧ w.extractLsb' 0 8 = 0x14#8))) ∧
  (∀ (s : State) (r : Request) (rest : List PortInput) (why : IllegalWord),
    s.inputs = .request r :: rest → decode r.cmd = .error why →
    step s = .next { s with
      request := r, inputs := rest, responses := s.responses ++ [.err .illegalCommand] })

/-- A step runs the decoded command: when the next input is a request whose word decodes to `i`, the step is `exec i` in
the state that has taken that request from the port and changed nothing else (20_memory.md section 4). -/
def Obligations.StepRunsTheDecodedCommand : Prop :=
  ∀ (s : State) (r : Request) (rest : List PortInput) (i : Instr),
    s.inputs = .request r :: rest → decode r.cmd = .ok i → i.wf = true →
    step s = exec i { s with request := r, inputs := rest }

/-- R190: reset sets FV to 0 and leaves FR without a value; parameters stay, there is no response, and power-up is a
reset. -/
def Obligations.ResetClearsTheFrameRegister : Prop :=
  (∀ (s : State) (rest : List PortInput), s.inputs = .reset :: rest →
    step s = .next { s with inputs := rest, fr := none, fv := false }) ∧
  (∀ p : Params, (State.resetWith p).fv = false ∧ (State.resetWith p).fr = none ∧
    (State.resetWith p).params = p) ∧
  State.reset.fv = false ∧ State.reset.fr = none

/-- With nothing presented the block waits. The model's choice (log 8); 00_scope.md section 4: "Nothing else happens in
between." -/
def Obligations.IdleBlockWaits : Prop :=
  ∀ s : State, s.inputs = [] → step s = .next s

/-! ## FWI, CRC and REV units -/

/-- R102: FWI_ENC. -/
def Obligations.FwiEncEncodesOrFails : Prop :=
  decode 0x00000001#32 = .ok .fwiEnc ∧
  ∀ s : State, s.params.Legal →
    (s.request.v.toNat ≤ 0xFFFFFFFF →
      exec .fwiEnc s = .next { s with responses := s.responses ++
        [.ok (.bytes [s.request.v.extractLsb' 24 8, s.request.v.extractLsb' 16 8,
          s.request.v.extractLsb' 8 8, s.request.v.extractLsb' 0 8])] }) ∧
    (0xFFFFFFFF < s.request.v.toNat →
      exec .fwiEnc s = .next { s with responses := s.responses ++ [.err .encodingError] })

/-- R103 with R101: FWI_DEC. The value is the padded input's positional sum. The capacity clause is R41's. -/
def Obligations.FwiDecDecodesOrFails : Prop :=
  decode 0x00000002#32 = .ok .fwiDec ∧
  ∀ s : State, s.params.Legal →
    (s.request.a.length ≤ 8 →
      (∑ k ∈ Finset.range 8,
        ((List.replicate (8 - s.request.a.length) 0#8 ++ s.request.a).getD k 0#8).toNat * 256 ^ (7 - k)) < 2 ^ 64 ∧
      exec .fwiDec s = .next { s with responses := s.responses ++
        [.ok (.value (BitVec.ofNat 64 (∑ k ∈ Finset.range 8,
          ((List.replicate (8 - s.request.a.length) 0#8 ++ s.request.a).getD k 0#8).toNat * 256 ^ (7 - k))))] }) ∧
    (8 < s.request.a.length → s.request.a.length ≤ s.params.maxLen →
      exec .fwiDec s = .next { s with responses := s.responses ++ [.err .operandError] }) ∧
    (s.params.maxLen < s.request.a.length →
      exec .fwiDec s = .next { s with responses := s.responses ++ [.err .capacityError] })

/-- The FWI laws (40_fixed_width_int.md section 3, which the spec derives from R100 and R101): encoding then decoding,
decoding then encoding, the encoder's width and its only failure, the decoder's range, and leading zeros. -/
def Obligations.FwiLawsHold : Prop :=
  (∀ v : Nat, v ≤ 0xFFFFFFFF → ∃ r, be4 v = .ok r ∧ r.length = 4 ∧ unbe r = v) ∧
  (∀ v : Nat, 0xFFFFFFFF < v → be4 v = .error .encodingError) ∧
  (∀ p : Bytes, p.length = 4 → be4 (unbe p) = .ok p) ∧
  (∀ p : Bytes, p.length ≤ 8 → unbe p < 2 ^ 64) ∧
  (∀ (k : Nat) (p : Bytes), k + p.length ≤ 8 → unbe (List.replicate k 0#8 ++ p) = unbe p)

/-- R111: the bitwise definition, the byte-at-a-time table form, which computes the same function, and the sample table
entries. -/
def Obligations.CrcBitwiseAndTableFormsAgree : Prop :=
  let turn : Word32 → Word32 := fun c => if c.getLsbD 31 then (c <<< 1) ^^^ 0x04C11DB7#32 else c <<< 1
  let table : Byte → Word32 := fun k => turn^[8] (k.setWidth 32 <<< 24)
  (∀ p : Bytes, crc32Bzip2 p =
    p.foldl (fun (c : Word32) (b : Byte) => turn^[8] (c ^^^ (b.setWidth 32 <<< 24))) 0xFFFFFFFF#32 ^^^ 0xFFFFFFFF#32) ∧
  (∀ p : Bytes, crc32Bzip2 p =
    p.foldl (fun (c : Word32) (b : Byte) => (c <<< 8) ^^^ table (c.extractLsb' 24 8 ^^^ b)) 0xFFFFFFFF#32 ^^^ 0xFFFFFFFF#32) ∧
  table 0x00#8 = 0x00000000#32 ∧ table 0x01#8 = 0x04C11DB7#32 ∧ table 0x02#8 = 0x09823B6E#32 ∧
  table 0x80#8 = 0x690CE0EE#32 ∧ table 0xFF#8 = 0xB1F740B4#32

/-- The digest is the whole CRC, 4 bytes, most significant first, and its encoding never fails (R112). -/
def Obligations.DigestNeverFails : Prop :=
  ∀ p : Bytes, be4 (crc32Bzip2 p).toNat = .ok (digest p) ∧ (digest p).length = 4 ∧
    digest p = [(crc32Bzip2 p).extractLsb' 24 8, (crc32Bzip2 p).extractLsb' 16 8,
      (crc32Bzip2 p).extractLsb' 8 8, (crc32Bzip2 p).extractLsb' 0 8]

/-- R113: CRC, with the rule's corner cases. The capacity clause is R41's. -/
def Obligations.CrcReturnsTheDigest : Prop :=
  decode 0x00000003#32 = .ok .crc ∧
  (∀ s : State, s.params.Legal →
    (s.request.a.length ≤ s.params.maxLen →
      exec .crc s = .next { s with responses := s.responses ++ [.ok (.bytes (digest s.request.a))] }) ∧
    (s.params.maxLen < s.request.a.length →
      exec .crc s = .next { s with responses := s.responses ++ [.err .capacityError] })) ∧
  digest [] = [0x00#8, 0x00#8, 0x00#8, 0x00#8] ∧
  digest [0xFF#8, 0xFF#8, 0xFF#8, 0xFF#8] = [0xFF#8, 0xFF#8, 0xFF#8, 0xFF#8] ∧
  digest [0x00#8] = [0xB1#8, 0xF7#8, 0x40#8, 0x4B#8] ∧
  digest [0x31#8, 0x32#8, 0x33#8, 0x34#8, 0x35#8, 0x36#8, 0x37#8, 0x38#8, 0x39#8] = [0xFC#8, 0x89#8, 0x19#8, 0x18#8]

/-- Affinity of the CRC (41_digest.md section 3, "Affinity", which the spec derives from R111). -/
def Obligations.CrcIsAffine : Prop :=
  ∀ a b c : Bytes, a.length = b.length → b.length = c.length →
    crc32Bzip2 a ^^^ crc32Bzip2 b ^^^ crc32Bzip2 c =
      crc32Bzip2 (List.zipWith (· ^^^ ·) (List.zipWith (· ^^^ ·) a b) c)

/-- Residue of the CRC (41_digest.md section 3, "Residue", which the spec derives from R111): a sequence followed by its
own digest always has the same CRC. -/
def Obligations.CrcResidueIsConstant : Prop :=
  ∀ p : Bytes, crc32Bzip2 (p ++ digest p) = 0x38FB2284#32

/-- Different sequences can have one digest (41_digest.md section 3, "Collisions"): three sequences, two of them of one
length, whose digest by the bitwise definition is `38 FB 22 84`. -/
def Obligations.DigestsCollide : Prop :=
  digest [0x00#8, 0xB1#8, 0xF7#8, 0x40#8, 0x4B#8] = [0x38#8, 0xFB#8, 0x22#8, 0x84#8] ∧
  digest [0x01#8, 0xB5#8, 0x36#8, 0x5D#8, 0xFC#8] = [0x38#8, 0xFB#8, 0x22#8, 0x84#8] ∧
  digest [0x00#8, 0x00#8, 0x00#8, 0x00#8] = [0x38#8, 0xFB#8, 0x22#8, 0x84#8] ∧
  digest [0x00#8] ≠ digest [0x01#8]

/-- R121 with R120: REV. The capacity clause is R41's. -/
def Obligations.RevReversesTheBytes : Prop :=
  decode 0x00000004#32 = .ok .rev ∧
  ∀ s : State, s.params.Legal →
    (s.request.a.length ≤ s.params.maxLen →
      ∃ r : Bytes, exec .rev s = .next { s with responses := s.responses ++ [.ok (.bytes r)] } ∧
        r.length = s.request.a.length ∧
        ∀ k, k < s.request.a.length → r[k]? = s.request.a[s.request.a.length - 1 - k]?) ∧
    (s.params.maxLen < s.request.a.length →
      exec .rev s = .next { s with responses := s.responses ++ [.err .capacityError] })

/-! ## The frame codec -/

/-- R131 with R130: BUILD. It loads FR whatever FR and FV held. The capacity clause is R41's. -/
def Obligations.BuildLoadsTheFrame : Prop :=
  decode 0x00000010#32 = .ok .build ∧
  ∀ s : State,
    (s.request.a.length ≤ s.params.maxLen → s.request.b.length ≤ s.params.maxLen → 32 ≤ s.request.a.length →
      exec .build s = .next { s with
        fr := some
          { token := s.request.b
            tokenLength := s.request.b.length
            tailLength := s.request.a.length - 32
            wholeDigest := digest s.request.a
            headDigest := digest (s.request.a.take 32)
            tailDigest := digest (s.request.a.drop 32)
            headSegment := (s.request.a.take 32).reverse
            tailSegment := (s.request.a.drop 32).reverse }
        fv := true
        responses := s.responses ++ [.ok .none] }) ∧
    (s.request.a.length ≤ s.params.maxLen → s.request.b.length ≤ s.params.maxLen → s.request.a.length < 32 →
      exec .build s = .next { s with responses := s.responses ++ [.err .formatError] }) ∧
    (s.params.maxLen < s.request.a.length ∨ s.params.maxLen < s.request.b.length →
      exec .build s = .next { s with responses := s.responses ++ [.err .capacityError] })

/-- SERIALIZE (43_frame_codec.md sections 1 and 2), for every well-formed frame in FR. On success only, FV is cleared. That
FR holds no value after that follows 10_state.md section 1 and is the model's reading where section 2 says "left
unchanged" (DEDUCED, log 4). -/
def Obligations.SerializeEmitsAndConsumes : Prop :=
  decode 0x00000011#32 = .ok .serialize ∧
  ∀ s : State,
    (s.fv = false → exec .serialize s = .next { s with responses := s.responses ++ [.err .noFrame] }) ∧
    (∀ f : Frame, s.fv = true → s.fr = some f → f.WellFormed →
      (f.tokenLength ≤ 0xFFFFFFFF → f.tailLength ≤ 0xFFFFFFFF →
        62 + f.tokenLength + f.tailLength ≤ s.params.maxLen →
        exec .serialize s = .next { s with
          fr := none
          fv := false
          responses := s.responses ++ [.ok (.bytes
            (wordBytes (BitVec.ofNat 32 f.tokenLength) ++ [0x3D#8] ++ wordBytes (BitVec.ofNat 32 f.tailLength) ++
              [0x24#8] ++ f.token ++ [0xC3#8, 0xBE#8, 0xC3#8, 0xBF#8] ++ f.wholeDigest ++ f.headDigest ++
              f.tailDigest ++ f.headSegment ++ [0xC3#8, 0xBE#8, 0xC3#8, 0xBF#8] ++ f.tailSegment))] }) ∧
      (0xFFFFFFFF < f.tokenLength ∨ 0xFFFFFFFF < f.tailLength →
        exec .serialize s = .next { s with responses := s.responses ++ [.err .encodingError] }) ∧
      (f.tokenLength ≤ 0xFFFFFFFF → f.tailLength ≤ 0xFFFFFFFF →
        s.params.maxLen < 62 + f.tokenLength + f.tailLength →
        exec .serialize s = .next { s with responses := s.responses ++ [.err .capacityError] }))

/-- The byte offsets and lengths of a serialized frame (30_encoding.md section 3, which the spec derives from R69). -/
def Obligations.SerializedFieldsStandAtTheirOffsets : Prop :=
  ∀ f : Frame, f.WellFormed → f.tokenLength ≤ 0xFFFFFFFF → f.tailLength ≤ 0xFFFFFFFF →
    ∃ w : Bytes, serialize f = .ok w ∧
      w.length = 62 + f.tokenLength + f.tailLength ∧
      be4 f.tokenLength = .ok (w.take 4) ∧
      (w.drop 4).take 1 = [0x3D#8] ∧
      be4 f.tailLength = .ok ((w.drop 5).take 4) ∧
      (w.drop 9).take 1 = [0x24#8] ∧
      (w.drop 10).take f.tokenLength = f.token ∧
      (w.drop (10 + f.tokenLength)).take 4 = [0xC3#8, 0xBE#8, 0xC3#8, 0xBF#8] ∧
      (w.drop (14 + f.tokenLength)).take 4 = f.wholeDigest ∧
      (w.drop (18 + f.tokenLength)).take 4 = f.headDigest ∧
      (w.drop (22 + f.tokenLength)).take 4 = f.tailDigest ∧
      (w.drop (26 + f.tokenLength)).take 32 = f.headSegment ∧
      (w.drop (58 + f.tokenLength)).take 4 = [0xC3#8, 0xBE#8, 0xC3#8, 0xBF#8] ∧
      w.drop (62 + f.tokenLength) = f.tailSegment

/-- A frame made by BUILD from `o` with token `t` serializes to 30 + |t| + |o| bytes (30_encoding.md section 3;
90_conflicts.md C2). -/
def Obligations.BuiltFrameLength : Prop :=
  ∀ (o t : Bytes) (f : Frame) (w : Bytes), build o t = .ok f → serialize f = .ok w →
    w.length = 30 + t.length + o.length

/-- R138 with R134, R135 and R136: PARSE, for operands within MAX_LEN. -/
def Obligations.ParseLoadsOrRejects : Prop :=
  decode 0x00000012#32 = .ok .parse ∧
  ∀ s : State, s.request.a.length ≤ s.params.maxLen → s.request.b.length ≤ s.params.maxLen →
    let p := s.request.a
    let tok := unbe (p.take 4)
    let tl := unbe ((p.drop 5).take 4)
    (ParseAccepts s.params p →
      exec .parse s = .next { s with
        fr := some
          { token := (p.drop 10).take tok
            tokenLength := tok
            tailLength := tl
            wholeDigest := (p.drop (14 + tok)).take 4
            headDigest := (p.drop (18 + tok)).take 4
            tailDigest := (p.drop (22 + tok)).take 4
            headSegment := (p.drop (26 + tok)).take 32
            tailSegment := (p.drop (62 + tok)).take tl }
        fv := true
        responses := s.responses ++ [.ok .none] }) ∧
    (¬ ParseAccepts s.params p →
      exec .parse s = .next { s with responses := s.responses ++ [.err .formatError] })

/-- PARSE and DECODE_FILE with a buffer longer than MAX_LEN raise CAPACITY_ERROR, for `B` too: the model's reading of
20_memory.md section 1 and of the operand table of 30_encoding.md section 1 (log 6). -/
def Obligations.ParsingChecksBothOperandLengths : Prop :=
  ∀ s : State, s.params.maxLen < s.request.a.length ∨ s.params.maxLen < s.request.b.length →
    exec .parse s = .next { s with responses := s.responses ++ [.err .capacityError] } ∧
    exec .decodeFile s = .next { s with responses := s.responses ++ [.err .capacityError] }

/-- ORIGINAL (43_frame_codec.md sections 1 and 2). On success FV is cleared. That FR holds no value after that follows
10_state.md section 1 and is the model's reading (DEDUCED, log 4). -/
def Obligations.OriginalReturnsAndConsumes : Prop :=
  decode 0x00000013#32 = .ok .original ∧
  ∀ s : State, s.Inv →
    (s.fv = false → exec .original s = .next { s with responses := s.responses ++ [.err .noFrame] }) ∧
    (∀ f : Frame, s.fv = true → s.fr = some f →
      (f.headSegment.reverse ++ f.tailSegment.reverse).length = 32 + f.tailLength ∧
      exec .original s = .next { s with
        fr := none
        fv := false
        responses := s.responses ++ [.ok (.bytes (f.headSegment.reverse ++ f.tailSegment.reverse))] })

/-- R141: FR_READ, all eight fields, and the illegal values of SEL. -/
def Obligations.FrReadReturnsTheField : Prop :=
  ([0x00000014#32, 0x00000114#32, 0x00000214#32, 0x00000314#32, 0x00000414#32, 0x00000514#32, 0x00000614#32,
      0x00000714#32].map fun w => (decode w).toOption) =
    [some .frReadToken, some .frReadTlen, some .frReadNlen, some .frReadWdig, some .frReadHdig, some .frReadTdig,
      some .frReadHseg, some .frReadTseg] ∧
  (∀ sel : BitVec 4, 8 ≤ sel.toNat → ∃ why, decode (0#20 ++ sel ++ 0x14#8) = .error why) ∧
  ∀ s : State, s.Inv →
    (s.fv = false →
      ∀ i ∈ [Instr.frReadToken, .frReadTlen, .frReadNlen, .frReadWdig, .frReadHdig, .frReadTdig, .frReadHseg,
          .frReadTseg],
        exec i s = .next { s with responses := s.responses ++ [.err .noFrame] }) ∧
    (∀ f : Frame, s.fv = true → s.fr = some f →
      exec .frReadToken s = .next { s with responses := s.responses ++ [.ok (.bytes f.token)] } ∧
      (∃ rv : Word64, rv.toNat = f.tokenLength ∧
        exec .frReadTlen s = .next { s with responses := s.responses ++ [.ok (.value rv)] }) ∧
      (∃ rv : Word64, rv.toNat = f.tailLength ∧
        exec .frReadNlen s = .next { s with responses := s.responses ++ [.ok (.value rv)] }) ∧
      exec .frReadWdig s = .next { s with responses := s.responses ++ [.ok (.bytes f.wholeDigest)] } ∧
      exec .frReadHdig s = .next { s with responses := s.responses ++ [.ok (.bytes f.headDigest)] } ∧
      exec .frReadTdig s = .next { s with responses := s.responses ++ [.ok (.bytes f.tailDigest)] } ∧
      exec .frReadHseg s = .next { s with responses := s.responses ++ [.ok (.bytes f.headSegment)] } ∧
      exec .frReadTseg s = .next { s with responses := s.responses ++ [.ok (.bytes f.tailSegment)] })

/-- R142: ENCODE_FILE is serialize of build, and leaves FR and FV alone. The operand clause is R41's. -/
def Obligations.EncodeFileComposesBuildAndSerialize : Prop :=
  decode 0x00000020#32 = .ok .encodeFile ∧
  ∀ s : State,
    (s.params.maxLen < s.request.a.length ∨ s.params.maxLen < s.request.b.length →
      exec .encodeFile s = .next { s with responses := s.responses ++ [.err .capacityError] }) ∧
    (s.request.a.length ≤ s.params.maxLen → s.request.b.length ≤ s.params.maxLen →
      (s.request.a.length < 32 →
        exec .encodeFile s = .next { s with responses := s.responses ++ [.err .formatError] }) ∧
      (32 ≤ s.request.a.length → 0xFFFFFFFF < s.request.b.length ∨ 0xFFFFFFFF < s.request.a.length - 32 →
        exec .encodeFile s = .next { s with responses := s.responses ++ [.err .encodingError] }) ∧
      (32 ≤ s.request.a.length → s.request.b.length ≤ 0xFFFFFFFF → s.request.a.length - 32 ≤ 0xFFFFFFFF →
        ∃ (f : Frame) (w : Bytes), build s.request.a s.request.b = .ok f ∧ serialize f = .ok w ∧
          w.length = 30 + s.request.b.length + s.request.a.length ∧
          (w.length ≤ s.params.maxLen →
            exec .encodeFile s = .next { s with responses := s.responses ++ [.ok (.bytes w)] }) ∧
          (s.params.maxLen < w.length →
            exec .encodeFile s = .next { s with responses := s.responses ++ [.err .capacityError] })))

/-- R143: DECODE_FILE is original of parse, and leaves FR and FV alone, for operands within MAX_LEN. -/
def Obligations.DecodeFileComposesParseAndOriginal : Prop :=
  decode 0x00000021#32 = .ok .decodeFile ∧
  ∀ s : State, s.request.a.length ≤ s.params.maxLen → s.request.b.length ≤ s.params.maxLen →
    (ParseAccepts s.params s.request.a →
      ∃ f : Frame, parse s.params s.request.a = .ok f ∧
        exec .decodeFile s = .next { s with responses := s.responses ++ [.ok (.bytes (original f))] }) ∧
    (¬ ParseAccepts s.params s.request.a →
      exec .decodeFile s = .next { s with responses := s.responses ++ [.err .formatError] })

/-! ## Laws of the codec -/

/-- Round trip (43_frame_codec.md section 3, "Round trip", which the spec derives): for every value of the parameters the
serialized frame of an original parses back to the built frame, whose original is that original. Serializing succeeds
exactly when both lengths fit in 4 bytes. -/
def Obligations.RoundTripRecoversTheOriginal : Prop :=
  ∀ (c : Params) (x t : Bytes), 32 ≤ x.length →
    ∃ f : Frame, build x t = .ok f ∧
      ((∃ w, serialize f = .ok w) ↔ t.length ≤ 0xFFFFFFFF ∧ x.length - 32 ≤ 0xFFFFFFFF) ∧
      ∀ w : Bytes, serialize f = .ok w → parse c w = .ok f ∧ original f = x

/-- Round trip through the frame register (43_frame_codec.md section 3: "At command level: BUILD, SERIALIZE, PARSE,
ORIGINAL in sequence give `R = x`, if no `CAPACITY_ERROR` occurs."), from every state with legal parameters, whatever
the operands the commands do not read. -/
def Obligations.RoundTripThroughTheFrameRegister : Prop :=
  ∀ (s : State) (q2 q3 q4 : Request), s.params.Legal → 32 ≤ s.request.a.length →
    s.request.b.length ≤ 0xFFFFFFFF → s.request.a.length - 32 ≤ 0xFFFFFFFF →
    30 + s.request.b.length + s.request.a.length ≤ s.params.maxLen →
    q3.b.length ≤ s.params.maxLen →
    ∃ (s1 s2 s3 s4 : State) (w : Bytes),
      exec .build s = .next s1 ∧
      exec .serialize { s1 with request := q2 } = .next s2 ∧ s2.responses = s1.responses ++ [.ok (.bytes w)] ∧
      exec .parse { s2 with request := { q3 with a := w } } = .next s3 ∧
      exec .original { s3 with request := q4 } = .next s4 ∧
      s4.responses = s.responses ++ [.ok .none, .ok (.bytes w), .ok .none, .ok (.bytes s.request.a)] ∧
      s4.fv = false

/-- Re-serialization (43_frame_codec.md section 3, "Re-serialization", which the spec derives): serializing a parsed
frame writes the constant separators and markers in place of those read and drops trailing bytes, and gives the buffer
back if its own were constant and nothing trailed. -/
def Obligations.ReserializingRestoresTheFraming : Prop :=
  ∀ (c : Params) (p : Bytes) (f : Frame), parse c p = .ok f →
    serialize f = .ok (p.take 4 ++ [0x3D#8] ++ (p.drop 5).take 4 ++ [0x24#8] ++ (p.drop 10).take f.tokenLength ++
      [0xC3#8, 0xBE#8, 0xC3#8, 0xBF#8] ++ (p.drop (14 + f.tokenLength)).take 44 ++
      [0xC3#8, 0xBE#8, 0xC3#8, 0xBF#8] ++ (p.drop (62 + f.tokenLength)).take f.tailLength) ∧
    (p[4]? = some 0x3D#8 → p[9]? = some 0x24#8 →
      (p.drop (10 + f.tokenLength)).take 4 = [0xC3#8, 0xBE#8, 0xC3#8, 0xBF#8] →
      (p.drop (58 + f.tokenLength)).take 4 = [0xC3#8, 0xBE#8, 0xC3#8, 0xBF#8] →
      p.length = 62 + f.tokenLength + f.tailLength →
      serialize f = .ok p)

/-- PARSE never raises ENCODING_ERROR: the lengths it reads always fit in 4 bytes (43_frame_codec.md section 3, the last
paragraph, which the spec derives; 90_conflicts.md C6). -/
def Obligations.ParseNeverRaisesEncodingError : Prop :=
  (∀ (c : Params) (p : Bytes) (f : Frame), parse c p = .ok f →
    f.tokenLength ≤ 0xFFFFFFFF ∧ f.tailLength ≤ 0xFFFFFFFF ∧ ∃ w, serialize f = .ok w) ∧
  (∀ s t : State, exec .parse s = .next t → t.responses ≠ s.responses ++ [.err .encodingError])

/-- R144: no digest is checked. A frame with any other 12 digest bytes parses to the same frame with those digests, and
its original is the same. -/
def Obligations.DigestsAreNeverChecked : Prop :=
  ∀ (c : Params) (p d : Bytes) (f : Frame), parse c p = .ok f → d.length = 12 →
    parse c (p.take (14 + f.tokenLength) ++ d ++ p.drop (26 + f.tokenLength)) =
      .ok { f with
        wholeDigest := d.take 4
        headDigest := (d.drop 4).take 4
        tailDigest := d.drop 8 } ∧
    original { f with
      wholeDigest := d.take 4
      headDigest := (d.drop 4).take 4
      tailDigest := d.drop 8 } = original f

/-- R137: the expected token is never compared. PARSE and DECODE_FILE do the same with any other `B` within MAX_LEN. -/
def Obligations.ExpectedTokenIsNeverCompared : Prop :=
  ∀ (s : State) (b : Bytes) (i : Instr), i ∈ [Instr.parse, .decodeFile] →
    s.request.b.length ≤ s.params.maxLen → b.length ≤ s.params.maxLen →
    ∃ t : State, exec i s = .next t ∧
      exec i { s with request := { s.request with b := b } } =
        .next { t with request := { s.request with b := b } }

/-- Strict framing and rejecting trailing bytes only reject more (from R8, R9, R134 to R136): what a strict or rejecting
block parses, a permissive and ignoring block parses to the same frame. -/
def Obligations.StricterParametersOnlyRejectMore : Prop :=
  ∀ (c : Params) (p : Bytes) (f : Frame), parse c p = .ok f →
    parse { c with strictFraming := false } p = .ok f ∧
    parse { c with trailingPolicy := .ignore } p = .ok f

/-! ## Whole-machine rules -/

/-- The frame of every command: what it leaves unchanged when it answers (10_state.md sections 1 and 2, 30_encoding.md
section 1, 70_reset_and_hazards.md section 2). One response is appended; the parameters, the request and the inputs
stay; BUILD and PARSE leave FR and FV or load a frame, SERIALIZE and ORIGINAL leave them or clear both (log 4), and every
other command leaves them. -/
def Obligations.CommandsChangeOnlyWhatTheyWrite : Prop :=
  ∀ (i : Instr) (s t : State), exec i s = .next t →
    t.params = s.params ∧ t.request = s.request ∧ t.inputs = s.inputs ∧
    (∃ r, t.responses = s.responses ++ [r]) ∧
    (i = .build ∨ i = .parse → (t.fr = s.fr ∧ t.fv = s.fv) ∨ (∃ f, t.fr = some f ∧ t.fv = true)) ∧
    (i = .serialize ∨ i = .original → (t.fr = s.fr ∧ t.fv = s.fv) ∨ (t.fr = none ∧ t.fv = false)) ∧
    (i ≠ .build → i ≠ .parse → i ≠ .serialize → i ≠ .original → t.fr = s.fr ∧ t.fv = s.fv)

/-- R23: FV is set by a successful BUILD or PARSE, cleared by a successful SERIALIZE or ORIGINAL and by reset, and
written by nothing else; the commands that read it raise NO_FRAME when it is 0. FV = 1 means FR holds a frame in every
state the invariant allows. -/
def Obligations.FvIsWrittenExactlyAsItsRuleSays : Prop :=
  (∀ (i : Instr) (s t : State), exec i s = .next t →
    ∃ r, t.responses = s.responses ++ [r] ∧
      (r.isOk = true → i = .build ∨ i = .parse → t.fv = true ∧ ∃ f, t.fr = some f) ∧
      (r.isOk = true → i = .serialize ∨ i = .original → t.fv = false) ∧
      (r.isOk = false ∨ (i ≠ .build ∧ i ≠ .parse ∧ i ≠ .serialize ∧ i ≠ .original) → t.fv = s.fv)) ∧
  (∀ (i : Instr) (s : State), i.needsFrame = true → s.fv = false →
    exec i s = .next { s with responses := s.responses ++ [.err .noFrame] }) ∧
  (∀ (s t : State) (rest : List PortInput), s.inputs = .reset :: rest → step s = .next t → t.fv = false) ∧
  (∀ s : State, s.Inv → s.fv = true → ∃ f, s.fr = some f)

/-- R172: a command that raises an error writes no state, and its response carries a code other than 0 and neither R nor
RV. -/
def Obligations.ErrorsWriteNothing : Prop :=
  (∀ (i : Instr) (s t : State) (e : ErrorKind), exec i s = .next t → t.responses = s.responses ++ [.err e] →
    t = { s with responses := s.responses ++ [.err e] }) ∧
  (∀ (s t : State) (e : ErrorKind), step s = .next t → t.responses = s.responses ++ [.err e] →
    t.fr = s.fr ∧ t.fv = s.fv) ∧
  (∀ e : ErrorKind, (Response.err e).errCode ≠ 0#4 ∧ (Response.err e).bytes? = none ∧
    (Response.err e).value? = none)

/-- The codes of the error kinds and which command raises which (60_exceptions.md section 1, the table of error kinds).
IO_ERROR and the codes 8 to 15 are never produced. -/
def Obligations.ErrorsAreRaisedOnlyByTheirCommands : Prop :=
  ((∀ res : Result, (Response.ok res).errCode = 0#4) ∧
    (Response.err .formatError).errCode = 1#4 ∧ (Response.err .encodingError).errCode = 2#4 ∧
    (Response.err .ioError).errCode = 3#4 ∧ (Response.err .illegalCommand).errCode = 4#4 ∧
    (Response.err .noFrame).errCode = 5#4 ∧ (Response.err .operandError).errCode = 6#4 ∧
    (Response.err .capacityError).errCode = 7#4) ∧
  (∀ (i : Instr) (s t : State) (e : ErrorKind), exec i s = .next t → t.responses = s.responses ++ [.err e] →
    (e = .formatError → i ∈ [Instr.build, .parse, .encodeFile, .decodeFile]) ∧
    (e = .encodingError → i ∈ [Instr.fwiEnc, .serialize, .encodeFile]) ∧
    e ≠ .ioError ∧ e ≠ .illegalCommand ∧
    (e = .noFrame → i.needsFrame = true) ∧
    (e = .operandError → i = .fwiDec) ∧
    (e = .capacityError → i ≠ .frReadTlen ∧ i ≠ .frReadNlen)) ∧
  (∀ (s t : State) (r : Response), step s = .next t → t.responses = s.responses ++ [r] →
    r.errCode ∈ [0#4, 1#4, 2#4, 4#4, 5#4, 6#4, 7#4] ∧ (r.errCode = 0#4 ↔ r.isOk = true))

/-- The error a command reports is the first that applies in the order of 60_exceptions.md section 1 (priority), and
without one it succeeds. The capacity check of the `B` of PARSE and DECODE_FILE is the model's reading (log 6). -/
def Obligations.FirstApplyingErrorIsReported : Prop :=
  ∀ (i : Instr) (s : State), s.Inv →
    (∀ e, FirstError i s e → exec i s = .next { s with responses := s.responses ++ [.err e] }) ∧
    ((∀ e, ¬ FirstError i s e) → ∃ (res : Result) (t : State), exec i s = .next t ∧
      t.responses = s.responses ++ [.ok res])

/-- No result is longer than MAX_LEN, and a command that uses a buffer longer than MAX_LEN raises CAPACITY_ERROR before
anything else (20_memory.md section 1). For the `B` of PARSE and DECODE_FILE this is the model's reading (log 6), and the
check of every byte result is log 7. -/
def Obligations.CapacityBoundsOperandsAndResults : Prop :=
  (∀ (i : Instr) (s t : State) (r : Bytes), exec i s = .next t → t.responses = s.responses ++ [.ok (.bytes r)] →
    r.length ≤ s.params.maxLen) ∧
  (∀ (i : Instr) (s : State), operandTooLong i s →
    exec i s = .next { s with responses := s.responses ++ [.err .capacityError] })

/-- "A request field not listed as read is ignored." (30_encoding.md section 1, operand usage): a command does the same
on two requests that agree on the fields it reads, whatever the others hold and however long they are. -/
def Obligations.UnlistedRequestFieldsAreIgnored : Prop :=
  ∀ (i : Instr) (s : State) (q : Request),
    (i.usesA = true → q.a = s.request.a) → (i.usesB = true → q.b = s.request.b) →
    (i.usesV = true → q.v = s.request.v) →
    (∀ t, exec i s = .next t → exec i { s with request := q } = .next { t with request := q }) ∧
    (∀ r, exec i s = .fault r → exec i { s with request := q } = .fault r) ∧
    (∀ r, exec i s ≠ .refused r)

/-- Nothing but FR and FV persists from one command to the next (10_state.md section 1), and errors are not sticky
(60_exceptions.md section 2): two states that agree on FR, FV, the parameters and the request answer alike, whatever was
answered before and whatever is still to come. -/
def Obligations.OnlyFrAndFvPersist : Prop :=
  ∀ (i : Instr) (s s' t : State), s.fr = s'.fr → s.fv = s'.fv → s.params = s'.params → s.request = s'.request →
    exec i s = .next t →
    ∃ (t' : State) (r : Response), exec i s' = .next t' ∧ t'.fr = t.fr ∧ t'.fv = t.fv ∧
      t.responses = s.responses ++ [r] ∧ t'.responses = s'.responses ++ [r]

/-- R24: while FV = 0, FR holds no value: so it is after reset, after every step from a state the invariant allows, and
after a successful SERIALIZE or ORIGINAL from any state. And no command reads FR then: with any content of the
register every command answers the same, and unless it loads a frame FV stays 0. -/
def Obligations.FrIsUnreadableWhileFvIsZero : Prop :=
  (∀ p : Params, (State.resetWith p).fv = false ∧ (State.resetWith p).fr = none) ∧
  (∀ s t : State, s.Inv → step s = .next t → t.fv = false → t.fr = none) ∧
  (∀ (i : Instr) (s t : State) (res : Result), i = .serialize ∨ i = .original → exec i s = .next t →
    t.responses = s.responses ++ [.ok res] → t.fv = false ∧ t.fr = none) ∧
  (∀ (i : Instr) (s : State) (g : Option Frame), s.fv = false →
    ∃ t t' : State, exec i s = .next t ∧ exec i { s with fr := g } = .next t' ∧
      t'.responses = t.responses ∧ t'.fv = t.fv ∧ t'.frame = t.frame ∧
      (i ≠ .build → i ≠ .parse → t.fv = false))

/-- Single-slot hazard (70_reset_and_hazards.md section 2): a successful BUILD or PARSE overwrites FR whatever FR and FV
held, without an error. -/
def Obligations.LoadingOverwritesTheSlot : Prop :=
  ∀ (i : Instr) (s t : State) (g : Option Frame) (b : Bool), i = .build ∨ i = .parse → exec i s = .next t →
    t.responses = s.responses ++ [.ok .none] → exec i { s with fr := g, fv := b } = .next t

/-- Consume-once hazard (70_reset_and_hazards.md section 2): after a successful SERIALIZE or ORIGINAL, any SERIALIZE,
ORIGINAL or FR_READ raises NO_FRAME, whatever its request. -/
def Obligations.ConsumedFrameIsGone : Prop :=
  ∀ (i j : Instr) (s t : State) (r : Response) (q : Request), i = .serialize ∨ i = .original →
    exec i s = .next t → t.responses = s.responses ++ [r] → r.isOk = true → j.needsFrame = true →
    exec j { t with request := q } =
      .next { t with request := q, responses := t.responses ++ [.err .noFrame] }

/-- Stale-frame hazard (70_reset_and_hazards.md section 2, which the spec derives): after a BUILD or PARSE that fails
while FV = 1, SERIALIZE, ORIGINAL and FR_READ answer with the previous frame as if it had not been issued. -/
def Obligations.FailedLoadLeavesTheOldFrame : Prop :=
  ∀ (i j : Instr) (s t : State) (e : ErrorKind) (q : Request), s.Inv → s.fv = true → i = .build ∨ i = .parse →
    exec i s = .next t → t.responses = s.responses ++ [.err e] → j.needsFrame = true →
    ∃ (u v : State) (r : Response), exec j { s with request := q } = .next u ∧
      exec j { t with request := q } = .next v ∧
      u.responses = s.responses ++ [r] ∧ v.responses = t.responses ++ [r] ∧ v.fr = u.fr ∧ v.fv = u.fv

/-- After reset no frame appears until a BUILD or PARSE succeeds (70_reset_and_hazards.md section 1, which the spec
derives): a step from a state with FV = 0 leaves FV = 0 unless it is that of such a request. -/
def Obligations.NoFrameUntilALoadSucceeds : Prop :=
  ∀ s t : State, s.fv = false → step s = .next t → t.fv = true →
    ∃ (r : Request) (rest : List PortInput), s.inputs = .request r :: rest ∧
      (r.cmd = 0x00000010#32 ∨ r.cmd = 0x00000012#32) ∧ t.responses = s.responses ++ [.ok .none]

/-- The relations of a frame BUILD wrote, and that PARSE need not keep those of the digests (10_state.md section 1, the
invariants (b) and (c), which the spec derives). -/
def Obligations.BuiltFramesCarryTrueDigests : Prop :=
  (∀ s t : State, exec .build s = .next t → t.responses = s.responses ++ [.ok .none] →
    ∃ f, t.fr = some f ∧ f.WellFormed ∧ f.tailLength = s.request.a.length - 32 ∧
      f.wholeDigest = digest s.request.a ∧
      f.headDigest = digest (rev f.headSegment) ∧ f.tailDigest = digest (rev f.tailSegment)) ∧
  (∀ s t : State, exec .parse s = .next t → t.responses = s.responses ++ [.ok .none] →
    ∃ f, t.fr = some f ∧ f.WellFormed) ∧
  (∃ (s t : State) (f : Frame), s.Inv ∧ exec .parse s = .next t ∧ t.fv = true ∧ t.fr = some f ∧
    f.headDigest ≠ digest (rev f.headSegment))

/-- The instantiation parameters never change (10_state.md section 2). -/
def Obligations.ParametersNeverChange : Prop :=
  ∀ s t : State, step s = .next t → t.params = s.params

/-- The invariant holds right after reset, for all legal parameters. -/
def Obligations.InvariantHoldsAtReset : Prop :=
  (∀ p : Params, p.Legal → (State.resetWith p).Inv) ∧ State.reset.Inv

/-- Every step keeps the invariant: legal parameters, while FV = 1 a well-formed frame in FR (10_state.md section 1,
invariant (a), which the spec derives), and while FV = 0 no value in FR (there, and log 4). -/
def Obligations.EveryStepKeepsTheInvariant : Prop :=
  ∀ s t : State, s.Inv → step s = .next t → t.Inv

/-- Every step answers: in a state the invariant allows none ends in a fault or a refusal, and a step that takes a
request sends exactly one response (00_scope.md section 4; that a command always completes is 92_eei_decisions.md D23,
log 12). -/
def Obligations.EveryStepAnswers : Prop :=
  ∀ s : State, s.Inv → ∃ t, step s = .next t ∧
    (∀ r rest, s.inputs = .request r :: rest →
      t.inputs = rest ∧ ∃ resp, t.responses = s.responses ++ [resp])

/-- Requests are performed one at a time in the order they are issued, each to completion (20_memory.md section 4,
60_exceptions.md section 3): from every state the invariant allows, the block takes all its inputs, keeps the
invariant, and sends exactly one response per request, after those already sent; and the responses to a first part of
the inputs do not depend on what is issued after it. That every request completes, and in one step, is the assumption of
92_eei_decisions.md D23 (log 12); that a reset takes a step of its own is log 9. -/
def Obligations.EveryRequestIsAnsweredInOrder : Prop :=
  ∀ s : State, s.Inv →
    (∃ (t : State) (rs : List Response), Sys2Proof.core.run s.inputs.length s = .next t ∧ t.Inv ∧ t.inputs = [] ∧
      t.responses = s.responses ++ rs ∧ rs.length = requestCount s.inputs) ∧
    (∀ (k : Nat) (more : List PortInput) (t : State), k ≤ s.inputs.length →
      Sys2Proof.core.run k s = .next t →
      Sys2Proof.core.run k { s with inputs := s.inputs ++ more } = .next { t with inputs := t.inputs ++ more })
end

