-- ==== Sys2Proof/Laws/State.lean ====
section
/-! SUPPORT. One lemma per field per update of the state, so that no proof unfolds a record update. -/

namespace Sys2Proof.Machine
open Sys2Proof

@[simp] theorem State.respond_fr (s : State) (r : Response) :
    (s.respond r).fr = s.fr := rfl
@[simp] theorem State.respond_fv (s : State) (r : Response) :
    (s.respond r).fv = s.fv := rfl
@[simp] theorem State.respond_params (s : State) (r : Response) :
    (s.respond r).params = s.params := rfl
@[simp] theorem State.respond_request (s : State) (r : Response) :
    (s.respond r).request = s.request := rfl
@[simp] theorem State.respond_inputs (s : State) (r : Response) :
    (s.respond r).inputs = s.inputs := rfl
@[simp] theorem State.respond_responses (s : State) (r : Response) :
    (s.respond r).responses = s.responses ++ [r] := rfl

@[simp] theorem State.loadFrame_fr (s : State) (f : Frame) :
    (s.loadFrame f).fr = some f := rfl
@[simp] theorem State.loadFrame_fv (s : State) (f : Frame) :
    (s.loadFrame f).fv = true := rfl
@[simp] theorem State.loadFrame_params (s : State) (f : Frame) :
    (s.loadFrame f).params = s.params := rfl
@[simp] theorem State.loadFrame_request (s : State) (f : Frame) :
    (s.loadFrame f).request = s.request := rfl
@[simp] theorem State.loadFrame_inputs (s : State) (f : Frame) :
    (s.loadFrame f).inputs = s.inputs := rfl
@[simp] theorem State.loadFrame_responses (s : State) (f : Frame) :
    (s.loadFrame f).responses = s.responses := rfl

@[simp] theorem State.consumeFrame_fr (s : State) :
    (s.consumeFrame).fr = none := rfl
@[simp] theorem State.consumeFrame_fv (s : State) :
    (s.consumeFrame).fv = false := rfl
@[simp] theorem State.consumeFrame_params (s : State) :
    (s.consumeFrame).params = s.params := rfl
@[simp] theorem State.consumeFrame_request (s : State) :
    (s.consumeFrame).request = s.request := rfl
@[simp] theorem State.consumeFrame_inputs (s : State) :
    (s.consumeFrame).inputs = s.inputs := rfl
@[simp] theorem State.consumeFrame_responses (s : State) :
    (s.consumeFrame).responses = s.responses := rfl

@[simp] theorem State.clearFrame_fr (s : State) :
    (s.clearFrame).fr = none := rfl
@[simp] theorem State.clearFrame_fv (s : State) :
    (s.clearFrame).fv = false := rfl
@[simp] theorem State.clearFrame_params (s : State) :
    (s.clearFrame).params = s.params := rfl
@[simp] theorem State.clearFrame_request (s : State) :
    (s.clearFrame).request = s.request := rfl
@[simp] theorem State.clearFrame_inputs (s : State) :
    (s.clearFrame).inputs = s.inputs := rfl
@[simp] theorem State.clearFrame_responses (s : State) :
    (s.clearFrame).responses = s.responses := rfl

@[simp] theorem State.accept_fr (s : State) (r : Request) (rest : List PortInput) :
    (s.accept r rest).fr = s.fr := rfl
@[simp] theorem State.accept_fv (s : State) (r : Request) (rest : List PortInput) :
    (s.accept r rest).fv = s.fv := rfl
@[simp] theorem State.accept_params (s : State) (r : Request) (rest : List PortInput) :
    (s.accept r rest).params = s.params := rfl
@[simp] theorem State.accept_request (s : State) (r : Request) (rest : List PortInput) :
    (s.accept r rest).request = r := rfl
@[simp] theorem State.accept_inputs (s : State) (r : Request) (rest : List PortInput) :
    (s.accept r rest).inputs = rest := rfl
@[simp] theorem State.accept_responses (s : State) (r : Request) (rest : List PortInput) :
    (s.accept r rest).responses = s.responses := rfl

@[simp] theorem State.acceptReset_fr (s : State) (rest : List PortInput) :
    (s.acceptReset rest).fr = none := rfl
@[simp] theorem State.acceptReset_fv (s : State) (rest : List PortInput) :
    (s.acceptReset rest).fv = false := rfl
@[simp] theorem State.acceptReset_params (s : State) (rest : List PortInput) :
    (s.acceptReset rest).params = s.params := rfl
@[simp] theorem State.acceptReset_request (s : State) (rest : List PortInput) :
    (s.acceptReset rest).request = s.request := rfl
@[simp] theorem State.acceptReset_inputs (s : State) (rest : List PortInput) :
    (s.acceptReset rest).inputs = rest := rfl
@[simp] theorem State.acceptReset_responses (s : State) (rest : List PortInput) :
    (s.acceptReset rest).responses = s.responses := rfl

@[simp] theorem State.frame_loadFrame (s : State) (f : Frame) : (s.loadFrame f).frame = some f := rfl
@[simp] theorem State.frame_consumeFrame (s : State) : s.consumeFrame.frame = none := rfl
@[simp] theorem State.frame_clearFrame (s : State) : s.clearFrame.frame = none := rfl
@[simp] theorem State.frame_respond (s : State) (r : Response) : (s.respond r).frame = s.frame := rfl

end Sys2Proof.Machine
end

