-- ==== Sys2Proof/Laws/Ops.lean ====
section
/-! SUPPORT. What each shared operation can do, said once: the lemmas proofs cite instead of unfolding them. -/

namespace Sys2Proof.Machine
open Sys2Proof

variable {s t u : State} {e : ErrorKind}

theorem raise_eq (e : ErrorKind) (s : State) : raise e s = .next (s.respond (.err e)) := rfl

/-- An error changes nothing but the responses. -/
theorem raise_next (h : raise e s = .next u) : u = s.respond (.err e) := by
  simpa [raise] using h.symm

@[simp] theorem orRaise_ok {α : Type} (v : α) (s : State) (k : α → Answer) : orRaise (.ok v) s k = k v := rfl

@[simp] theorem orRaise_error {α : Type} (e : ErrorKind) (s : State) (k : α → Answer) :
    orRaise (.error e) s k = raise e s := rfl

theorem orRaise_next {α : Type} {x : Except ErrorKind α} {k : α → Answer} (h : orRaise x s k = .next u) :
    (∃ e, x = .error e ∧ u = s.respond (.err e)) ∨ (∃ v, x = .ok v ∧ k v = .next u) := by
  cases x with
  | error e => exact .inl ⟨e, rfl, raise_next h⟩
  | ok v => exact .inr ⟨v, rfl, h⟩

theorem returnNone_eq (t : State) : returnNone t = .next (t.respond (.ok .none)) := rfl

theorem returnValue_eq (v : Word64) (t : State) : returnValue v t = .next (t.respond (.ok (.value v))) := rfl

theorem returnBytes_fits {r : Bytes} (h : r.length ≤ s.params.maxLen) :
    returnBytes r s t = .next (t.respond (.ok (.bytes r))) := by
  simp [returnBytes, Nat.not_lt.mpr h]

theorem returnBytes_tooLong {r : Bytes} (h : s.params.maxLen < r.length) :
    returnBytes r s t = .next (s.respond (.err .capacityError)) := by
  simp [returnBytes, h, raise]

theorem returnBytes_next {r : Bytes} (h : returnBytes r s t = .next u) :
    (s.params.maxLen < r.length ∧ u = s.respond (.err .capacityError)) ∨
      (r.length ≤ s.params.maxLen ∧ u = t.respond (.ok (.bytes r))) := by
  rcases Nat.lt_or_ge s.params.maxLen r.length with hl | hl
  · rw [returnBytes_tooLong hl] at h
    exact .inl ⟨hl, by simpa using h.symm⟩
  · rw [returnBytes_fits hl] at h
    exact .inr ⟨hl, by simpa using h.symm⟩

theorem withFrame_noFrame {k : Frame → Answer} (h : s.fv = false) :
    withFrame s k = .next (s.respond (.err .noFrame)) := by
  simp [withFrame, h, raise]

theorem withFrame_some {k : Frame → Answer} {f : Frame} (h : s.fv = true) (hf : s.fr = some f) :
    withFrame s k = k f := by
  simp [withFrame, h, hf]

theorem withFrame_next {k : Frame → Answer} (h : withFrame s k = .next u) :
    (s.fv = false ∧ u = s.respond (.err .noFrame)) ∨ (∃ f, s.fv = true ∧ s.fr = some f ∧ k f = .next u) := by
  cases hv : s.fv with
  | false =>
    rw [withFrame_noFrame hv] at h
    exact .inl ⟨rfl, by simpa using h.symm⟩
  | true =>
    cases hf : s.fr with
    | none => simp [withFrame, hv, hf] at h
    | some f =>
      rw [withFrame_some hv hf] at h
      exact .inr ⟨f, rfl, rfl, h⟩

theorem useBuffer_fits {buf : Bytes} {k : Answer} (h : buf.length ≤ s.params.maxLen) : useBuffer buf s k = k := by
  simp [useBuffer, Nat.not_lt.mpr h]

theorem useBuffer_tooLong {buf : Bytes} {k : Answer} (h : s.params.maxLen < buf.length) :
    useBuffer buf s k = .next (s.respond (.err .capacityError)) := by
  simp [useBuffer, h, raise]

theorem useBuffer_next {buf : Bytes} {k : Answer} (h : useBuffer buf s k = .next u) :
    (s.params.maxLen < buf.length ∧ u = s.respond (.err .capacityError)) ∨
      (buf.length ≤ s.params.maxLen ∧ k = .next u) := by
  rcases Nat.lt_or_ge s.params.maxLen buf.length with hl | hl
  · rw [useBuffer_tooLong hl] at h
    exact .inl ⟨hl, by simpa using h.symm⟩
  · rw [useBuffer_fits hl] at h
    exact .inr ⟨hl, h⟩

theorem useA_next {k : Answer} (h : useA s k = .next u) :
    (s.params.maxLen < s.request.a.length ∧ u = s.respond (.err .capacityError)) ∨
      (s.request.a.length ≤ s.params.maxLen ∧ k = .next u) :=
  useBuffer_next h

theorem useAB_next {k : Answer} (h : useAB s k = .next u) :
    ((s.params.maxLen < s.request.a.length ∨ s.params.maxLen < s.request.b.length) ∧
        u = s.respond (.err .capacityError)) ∨
      (s.request.a.length ≤ s.params.maxLen ∧ s.request.b.length ≤ s.params.maxLen ∧ k = .next u) := by
  rcases useBuffer_next h with ⟨ha, hu⟩ | ⟨ha, h'⟩
  · exact .inl ⟨.inl ha, hu⟩
  · rcases useBuffer_next h' with ⟨hb, hu⟩ | ⟨hb, h''⟩
    · exact .inl ⟨.inr hb, hu⟩
    · exact .inr ⟨ha, hb, h''⟩

theorem useAB_fits {k : Answer} (ha : s.request.a.length ≤ s.params.maxLen)
    (hb : s.request.b.length ≤ s.params.maxLen) : useAB s k = k := by
  unfold useAB State.opA State.opB
  rw [useBuffer_fits ha, useBuffer_fits hb]

theorem useAB_tooLong {k : Answer}
    (h : s.params.maxLen < s.request.a.length ∨ s.params.maxLen < s.request.b.length) :
    useAB s k = .next (s.respond (.err .capacityError)) := by
  unfold useAB State.opA State.opB
  rcases Nat.lt_or_ge s.params.maxLen s.request.a.length with ha | ha
  · exact useBuffer_tooLong ha
  · rw [useBuffer_fits ha]
    exact useBuffer_tooLong (by omega)

theorem memRead_length (p : Bytes) (off n : Nat) (h : off + n ≤ p.length) : (memRead p off n).length = n := by
  simp [memRead]; omega

theorem memRead_length_le (p : Bytes) (off n : Nat) : (memRead p off n).length ≤ n := by
  simp [memRead]

end Sys2Proof.Machine
end

