-- ==== Sys2Proof/Laws/Codec.lean ====
section
/-! SUPPORT. What the pure functions give: lengths, when they fail, and the frames they make. -/

namespace Sys2Proof.Machine
open Sys2Proof

@[simp] theorem wordBytes_length (w : Word32) : (wordBytes w).length = 4 := rfl

theorem settle_eq {α : Type} (c : Word32) (k : Word32 → α) : settle c k = k c := by
  unfold settle
  split
  · rename_i h
    rw [show c = 0#32 from BitVec.eq_of_toNat_eq (by simpa using h)]
  · rename_i n h
    have hc : BitVec.ofNat 32 (n + 1) = c := by rw [← Nat.succ_eq_add_one, ← h, BitVec.ofNat_toNat, BitVec.setWidth_eq]
    rw [hc]

theorem crcRegister_eq (p : Bytes) (c : Word32) : crcRegister p c = p.foldl crcFeed c := by
  induction p generalizing c with
  | nil => rfl
  | cons b p ih => rw [crcRegister, settle_eq, ih, List.foldl_cons]

/-- The CRC as the fold of R111. -/
theorem crc32Bzip2_eq (p : Bytes) :
    crc32Bzip2 p = p.foldl crcFeed Config.crcInit ^^^ Config.crcFinalXor := by
  rw [crc32Bzip2, crcRegister_eq]

@[simp] theorem digest_length (p : Bytes) : (digest p).length = 4 := rfl

@[simp] theorem rev_length (p : Bytes) : (rev p).length = p.length := by simp [rev]

theorem be4_fits {v : Nat} (h : v ≤ 0xFFFFFFFF) : be4 v = .ok (wordBytes (BitVec.ofNat 32 v)) := by
  simp [be4, Config.encodeMax, Nat.not_lt.mpr h]

theorem be4_tooBig {v : Nat} (h : 0xFFFFFFFF < v) : be4 v = .error .encodingError := by
  simp [be4, Config.encodeMax, h]

/-- A big-endian number of `n` bytes is below 256^n. -/
theorem bigEndian_lt (p : Bytes) : bigEndian p < 256 ^ p.length := by
  induction p using List.reverseRecOn with
  | nil => simp [bigEndian]
  | append_singleton p b ih =>
    have hb := b.isLt
    simp only [bigEndian, List.foldl_append, List.foldl_cons, List.foldl_nil, List.length_append,
      List.length_cons, List.length_nil, pow_succ] at *
    omega

theorem unbe_lt (p : Bytes) (h : p.length ≤ 8) : unbe p < 2 ^ 64 := by
  have := bigEndian_lt (zeros (Config.decodeMax - p.length) ++ p)
  have hl : (zeros (Config.decodeMax - p.length) ++ p).length = 8 := by
    simp [zeros, Config.decodeMax]; omega
  rw [hl] at this
  exact this

/-- Leading zero bytes do not change a big-endian number. -/
theorem bigEndian_zeros (n : Nat) (p : Bytes) : bigEndian (zeros n ++ p) = bigEndian p := by
  induction n with
  | zero => rfl
  | succ n ih => simpa [bigEndian, zeros, List.replicate_succ] using ih

theorem unbe_eq (p : Bytes) : unbe p = bigEndian p := bigEndian_zeros _ _

theorem serialize_fits {f : Frame} (ht : f.tokenLength ≤ 0xFFFFFFFF) (hn : f.tailLength ≤ 0xFFFFFFFF) :
    serialize f =
      .ok (layout (wordBytes (BitVec.ofNat 32 f.tokenLength)) (wordBytes (BitVec.ofNat 32 f.tailLength)) f) := by
  simp [serialize, be4_fits ht, be4_fits hn]

theorem serialize_tooBig {f : Frame} (h : 0xFFFFFFFF < f.tokenLength ∨ 0xFFFFFFFF < f.tailLength) :
    serialize f = .error .encodingError := by
  rcases Nat.lt_or_ge 0xFFFFFFFF f.tokenLength with ht | ht
  · simp [serialize, be4_tooBig ht]
  · have hn : 0xFFFFFFFF < f.tailLength := by omega
    simp [serialize, be4_fits ht, be4_tooBig hn]

theorem layout_length (f : Frame) (lt ln : Bytes) (hf : f.WellFormed) (h4 : lt.length = 4) (h4' : ln.length = 4) :
    (layout lt ln f).length = 62 + f.tokenLength + f.tailLength := by
  obtain ⟨h1, h2, h3, h5, h6, h7⟩ := hf
  simp [layout, Config.boundaryMarker, h2, h3, h4, h4', h5, h6, h7]
  omega

theorem frameOf_wellFormed (o t : Bytes) (h : 32 ≤ o.length) : (frameOf o t).WellFormed := by
  simp [Frame.WellFormed, frameOf, headOf, tailOf, Config.headSize, h]

theorem build_fits {o t : Bytes} (h : 32 ≤ o.length) : build o t = .ok (frameOf o t) := by
  simp [build, Config.headSize, Nat.not_lt.mpr h]

theorem build_short {o t : Bytes} (h : o.length < 32) : build o t = .error .formatError := by
  simp [build, Config.headSize, h]

theorem build_ok {o t : Bytes} {f : Frame} (h : build o t = .ok f) : 32 ≤ o.length ∧ f = frameOf o t := by
  unfold build at h
  split at h
  · cases h
  · rename_i hl
    simp only [Config.headSize, Nat.not_lt] at hl
    exact ⟨hl, by simpa using h.symm⟩

theorem build_error {o t : Bytes} {e : ErrorKind} (h : build o t = .error e) :
    o.length < 32 ∧ e = .formatError := by
  unfold build at h
  split at h
  · rename_i hl; exact ⟨hl, by simpa using h.symm⟩
  · cases h

theorem parse_ok {c : Params} {p : Bytes} {f : Frame} (h : parse c p = .ok f) :
    62 + declaredToken p + declaredTail p ≤ p.length ∧ f = frameAt p := by
  unfold parse at h
  iterate 5
    split at h
    · cases h
  exact ⟨by omega, by simpa using h.symm⟩

theorem parse_error {c : Params} {p : Bytes} {e : ErrorKind} (h : parse c p = .error e) : e = .formatError := by
  unfold parse at h
  iterate 5
    split at h
    · simpa using h.symm
  cases h

/-- A buffer that passes the checks gives a frame with the widths and relations of R22 (a). -/
theorem frameAt_wellFormed (p : Bytes) (h : 62 + declaredToken p + declaredTail p ≤ p.length) :
    (frameAt p).WellFormed := by
  refine ⟨?_, ?_, ?_, ?_, ?_, ?_⟩ <;> simp only [frameAt] <;> rw [memRead_length] <;> omega

end Sys2Proof.Machine
end

