-- ==== Sys2Proof/Laws/Exec.lean ====
section
/-! SUPPORT. What a command and a step can do, said once: every invariant and frame follows from these inversion lemmas.
-/

namespace Sys2Proof.Machine
open Sys2Proof

variable {s t : State}

/-- Everything a command that answers can do (R63, R172). -/
def Effect (i : Instr) (s t : State) : Prop :=
  (∃ e, t = s.respond (.err e)) ∨
  (i.loadsFrame = false ∧ i.consumesFrame = false ∧ ∃ res, t = s.respond (.ok res) ∧
    ∀ r, res = .bytes r → r.length ≤ s.params.maxLen) ∨
  (i.loadsFrame = true ∧ ∃ f, f.WellFormed ∧ t = (s.loadFrame f).respond (.ok .none) ∧
    (s.params.Legal → f.FitsIn s.params.maxLen)) ∨
  (i.consumesFrame = true ∧ s.fv = true ∧ ∃ r, t = s.consumeFrame.respond (.ok (.bytes r)) ∧
    r.length ≤ s.params.maxLen)

theorem effect_returnBytes {i : Instr} {r : Bytes} (hl : i.loadsFrame = false) (hc : i.consumesFrame = false)
    (h : returnBytes r s s = .next t) : Effect i s t := by
  rcases returnBytes_next h with ⟨-, rfl⟩ | ⟨hr, rfl⟩
  · exact .inl ⟨_, rfl⟩
  · exact .inr (.inl ⟨hl, hc, _, rfl, fun r' h' => by cases h'; exact hr⟩)

theorem effect_returnValue {i : Instr} {v : Word64} (hl : i.loadsFrame = false) (hc : i.consumesFrame = false)
    (h : returnValue v s = .next t) : Effect i s t := by
  simp only [returnValue, Host.Outcome.next.injEq] at h
  exact .inr (.inl ⟨hl, hc, _, h.symm, fun r h' => by cases h'⟩)

theorem effect_consume {i : Instr} {r : Bytes} (hc : i.consumesFrame = true) (hv : s.fv = true)
    (h : returnBytes r s s.consumeFrame = .next t) : Effect i s t := by
  rcases returnBytes_next h with ⟨-, rfl⟩ | ⟨hr, rfl⟩
  · exact .inl ⟨_, rfl⟩
  · exact .inr (.inr (.inr ⟨hc, hv, r, rfl, hr⟩))

theorem effect_readBytes {i : Instr} {field : Frame → Bytes} (hl : i.loadsFrame = false)
    (hc : i.consumesFrame = false) (h : readBytes field s = .next t) : Effect i s t := by
  rcases withFrame_next h with ⟨-, rfl⟩ | ⟨f, -, -, h⟩
  · exact .inl ⟨_, rfl⟩
  · exact effect_returnBytes hl hc h

theorem effect_readLength {i : Instr} {field : Frame → Nat} (hl : i.loadsFrame = false)
    (hc : i.consumesFrame = false) (h : readLength field s = .next t) : Effect i s t := by
  rcases withFrame_next h with ⟨-, rfl⟩ | ⟨f, -, -, h⟩
  · exact .inl ⟨_, rfl⟩
  · exact effect_returnValue hl hc h

theorem effect_fwiEnc (h : exec .fwiEnc s = .next t) : Effect .fwiEnc s t := by
  rcases orRaise_next h with ⟨e, -, rfl⟩ | ⟨r, -, h⟩
  · exact .inl ⟨_, rfl⟩
  · exact effect_returnBytes rfl rfl h

theorem effect_fwiDec (h : exec .fwiDec s = .next t) : Effect .fwiDec s t := by
  rcases useA_next h with ⟨-, rfl⟩ | ⟨-, h⟩
  · exact .inl ⟨_, rfl⟩
  · split at h
    · exact .inl ⟨_, raise_next h⟩
    · exact effect_returnValue rfl rfl h

theorem effect_crc (h : exec .crc s = .next t) : Effect .crc s t := by
  rcases useA_next h with ⟨-, rfl⟩ | ⟨-, h⟩
  · exact .inl ⟨_, rfl⟩
  · exact effect_returnBytes rfl rfl h

theorem effect_rev (h : exec .rev s = .next t) : Effect .rev s t := by
  rcases useA_next h with ⟨-, rfl⟩ | ⟨-, h⟩
  · exact .inl ⟨_, rfl⟩
  · exact effect_returnBytes rfl rfl h

theorem effect_build (h : exec .build s = .next t) : Effect .build s t := by
  rcases useAB_next h with ⟨-, rfl⟩ | ⟨ha, hb, h⟩
  · exact .inl ⟨_, rfl⟩
  · rcases orRaise_next h with ⟨e, -, rfl⟩ | ⟨f, hf, h⟩
    · exact .inl ⟨_, rfl⟩
    · obtain ⟨hl, rfl⟩ := build_ok hf
      simp only [returnNone, Host.Outcome.next.injEq] at h
      refine .inr (.inr (.inl ⟨rfl, _, frameOf_wellFormed _ _ hl, h.symm, fun _ => ⟨hb, ?_⟩⟩))
      simp only [frameOf, tailOf, Config.headSize, List.length_drop, State.opA] at *
      omega

theorem effect_serialize (h : exec .serialize s = .next t) : Effect .serialize s t := by
  rcases withFrame_next h with ⟨-, rfl⟩ | ⟨f, hv, -, h⟩
  · exact .inl ⟨_, rfl⟩
  · rcases orRaise_next h with ⟨e, -, rfl⟩ | ⟨r, -, h⟩
    · exact .inl ⟨_, rfl⟩
    · exact effect_consume rfl hv h

theorem effect_parse (h : exec .parse s = .next t) : Effect .parse s t := by
  rcases useAB_next h with ⟨-, rfl⟩ | ⟨ha, -, h⟩
  · exact .inl ⟨_, rfl⟩
  · rcases orRaise_next h with ⟨e, -, rfl⟩ | ⟨f, hf, h⟩
    · exact .inl ⟨_, rfl⟩
    · obtain ⟨hl, rfl⟩ := parse_ok hf
      simp only [returnNone, Host.Outcome.next.injEq] at h
      refine .inr (.inr (.inl ⟨rfl, _, frameAt_wellFormed _ hl, h.symm, fun _ => ?_⟩))
      simp only [Frame.FitsIn, frameAt, State.opA] at *
      omega

theorem effect_original (h : exec .original s = .next t) : Effect .original s t := by
  rcases withFrame_next h with ⟨-, rfl⟩ | ⟨f, hv, -, h⟩
  · exact .inl ⟨_, rfl⟩
  · exact effect_consume rfl hv h

theorem effect_encodeFile (h : exec .encodeFile s = .next t) : Effect .encodeFile s t := by
  rcases useAB_next h with ⟨-, rfl⟩ | ⟨-, -, h⟩
  · exact .inl ⟨_, rfl⟩
  · rcases orRaise_next h with ⟨e, -, rfl⟩ | ⟨f, -, h⟩
    · exact .inl ⟨_, rfl⟩
    · rcases orRaise_next h with ⟨e, -, rfl⟩ | ⟨r, -, h⟩
      · exact .inl ⟨_, rfl⟩
      · exact effect_returnBytes rfl rfl h

theorem effect_decodeFile (h : exec .decodeFile s = .next t) : Effect .decodeFile s t := by
  rcases useAB_next h with ⟨-, rfl⟩ | ⟨-, -, h⟩
  · exact .inl ⟨_, rfl⟩
  · rcases orRaise_next h with ⟨e, -, rfl⟩ | ⟨f, -, h⟩
    · exact .inl ⟨_, rfl⟩
    · exact effect_returnBytes rfl rfl h

/-- The inversion of `exec`. -/
theorem exec_next {i : Instr} (h : exec i s = .next t) : Effect i s t := by
  cases i with
  | fwiEnc => exact effect_fwiEnc h
  | fwiDec => exact effect_fwiDec h
  | crc => exact effect_crc h
  | rev => exact effect_rev h
  | build => exact effect_build h
  | serialize => exact effect_serialize h
  | parse => exact effect_parse h
  | original => exact effect_original h
  | frReadToken => exact effect_readBytes rfl rfl h
  | frReadTlen => exact effect_readLength rfl rfl h
  | frReadNlen => exact effect_readLength rfl rfl h
  | frReadWdig => exact effect_readBytes rfl rfl h
  | frReadHdig => exact effect_readBytes rfl rfl h
  | frReadTdig => exact effect_readBytes rfl rfl h
  | frReadHseg => exact effect_readBytes rfl rfl h
  | frReadTseg => exact effect_readBytes rfl rfl h
  | encodeFile => exact effect_encodeFile h
  | decodeFile => exact effect_decodeFile h

/-- The inversion of `step`. -/
theorem step_next (h : step s = .next t) :
    (s.inputs = [] ∧ t = s) ∨
    (∃ rest, s.inputs = .reset :: rest ∧ t = s.acceptReset rest) ∨
    (∃ r rest, s.inputs = .request r :: rest ∧
      ((∃ i, decode r.cmd = .ok i ∧ exec i (s.accept r rest) = .next t) ∨
        (∃ why, decode r.cmd = .error why ∧ t = (s.accept r rest).respond (.err .illegalCommand)))) := by
  unfold step at h
  split at h
  · rename_i hi; exact .inl ⟨hi, by simpa using h.symm⟩
  · rename_i rest hi; exact .inr (.inl ⟨rest, hi, by simpa using h.symm⟩)
  · rename_i r rest hi
    refine .inr (.inr ⟨r, rest, hi, ?_⟩)
    split at h
    · rename_i i hd; exact .inl ⟨i, hd, h⟩
    · rename_i why hd; exact .inr ⟨why, hd, raise_next h⟩

end Sys2Proof.Machine
end

