-- ==== Sys2Proof/Laws/PerInstr.lean ====
section
/-! SUPPORT. The statements made for every instruction, one lemma per constructor. -/

namespace Sys2Proof.Laws.WellEncoded
open Sys2Proof

/-- The command word of an instruction keeps the field rules of R61 and R65: `RSV` is 0, `SEL` is 0 unless the `OP` is
FR_READ's, and `SEL` is below 8. -/
def Statement (i : Instr) : Prop :=
  i.wf = true ∧ wordRsv (encode i) = 0#20 ∧ (wordSel (encode i) = 0#4 ∨ wordOp (encode i) = opFrRead) ∧
    (wordSel (encode i)).toNat < 8

theorem fwiEnc : Statement .fwiEnc := by simp only [Statement]; decide
theorem fwiDec : Statement .fwiDec := by simp only [Statement]; decide
theorem crc : Statement .crc := by simp only [Statement]; decide
theorem rev : Statement .rev := by simp only [Statement]; decide
theorem build : Statement .build := by simp only [Statement]; decide
theorem serialize : Statement .serialize := by simp only [Statement]; decide
theorem parse : Statement .parse := by simp only [Statement]; decide
theorem original : Statement .original := by simp only [Statement]; decide
theorem frReadToken : Statement .frReadToken := by simp only [Statement]; decide
theorem frReadTlen : Statement .frReadTlen := by simp only [Statement]; decide
theorem frReadNlen : Statement .frReadNlen := by simp only [Statement]; decide
theorem frReadWdig : Statement .frReadWdig := by simp only [Statement]; decide
theorem frReadHdig : Statement .frReadHdig := by simp only [Statement]; decide
theorem frReadTdig : Statement .frReadTdig := by simp only [Statement]; decide
theorem frReadHseg : Statement .frReadHseg := by simp only [Statement]; decide
theorem frReadTseg : Statement .frReadTseg := by simp only [Statement]; decide
theorem encodeFile : Statement .encodeFile := by simp only [Statement]; decide
theorem decodeFile : Statement .decodeFile := by simp only [Statement]; decide

end Sys2Proof.Laws.WellEncoded
end

