-- ==== Sys2Proof/Tests/Slice0.lean ====
section
/-! SUPPORT. The model's own tests. Expected values come from the tables and examples of spec/95_test_vectors.md, named in
each docstring, and decoding tests from the opcode map of 30_encoding.md R62. After them, for every statement with
hypotheses, a witness: a concrete state and operands that meet them all, at the boundaries of its clauses. -/

namespace Sys2Proof.Tests
open Sys2Proof Sys2Proof.Machine

/-- `X31`, `X32`, `X33` of spec/95_test_vectors.md: byte `i` at index `i`. -/
def upTo (n : Nat) : Bytes := (List.range n).map (BitVec.ofNat 8)

/-- `n` zero bytes. -/
def zs (n : Nat) : Bytes := List.replicate n 0#8

/-- The serialized frame of `X32` and `[]` (2.6). -/
def f62 : Bytes :=
  [0x00#8, 0x00#8, 0x00#8, 0x00#8, 0x3D#8, 0x00#8, 0x00#8, 0x00#8, 0x00#8, 0x24#8, 0xC3#8, 0xBE#8, 0xC3#8, 0xBF#8, 0x70#8, 0x7E#8] ++
  [0x66#8, 0xAF#8, 0x70#8, 0x7E#8, 0x66#8, 0xAF#8, 0x00#8, 0x00#8, 0x00#8, 0x00#8, 0x1F#8, 0x1E#8, 0x1D#8, 0x1C#8, 0x1B#8, 0x1A#8] ++
  [0x19#8, 0x18#8, 0x17#8, 0x16#8, 0x15#8, 0x14#8, 0x13#8, 0x12#8, 0x11#8, 0x10#8, 0x0F#8, 0x0E#8, 0x0D#8, 0x0C#8, 0x0B#8, 0x0A#8] ++
  [0x09#8, 0x08#8, 0x07#8, 0x06#8, 0x05#8, 0x04#8, 0x03#8, 0x02#8, 0x01#8, 0x00#8, 0xC3#8, 0xBE#8, 0xC3#8, 0xBF#8]

/-- `F64` (2.6). -/
def f64 : Bytes :=
  [0x00#8, 0x00#8, 0x00#8, 0x02#8, 0x3D#8, 0x00#8, 0x00#8, 0x00#8, 0x00#8, 0x24#8, 0x41#8, 0x42#8, 0xC3#8, 0xBE#8, 0xC3#8, 0xBF#8] ++
  [0x70#8, 0x7E#8, 0x66#8, 0xAF#8, 0x70#8, 0x7E#8, 0x66#8, 0xAF#8, 0x00#8, 0x00#8, 0x00#8, 0x00#8, 0x1F#8, 0x1E#8, 0x1D#8, 0x1C#8] ++
  [0x1B#8, 0x1A#8, 0x19#8, 0x18#8, 0x17#8, 0x16#8, 0x15#8, 0x14#8, 0x13#8, 0x12#8, 0x11#8, 0x10#8, 0x0F#8, 0x0E#8, 0x0D#8, 0x0C#8] ++
  [0x0B#8, 0x0A#8, 0x09#8, 0x08#8, 0x07#8, 0x06#8, 0x05#8, 0x04#8, 0x03#8, 0x02#8, 0x01#8, 0x00#8, 0xC3#8, 0xBE#8, 0xC3#8, 0xBF#8]

/-- `FK` (2.6). -/
def fk : Bytes :=
  [0x00#8, 0x00#8, 0x00#8, 0x01#8, 0x3D#8, 0x00#8, 0x00#8, 0x00#8, 0x01#8, 0x24#8, 0x4B#8, 0xC3#8, 0xBE#8, 0xC3#8, 0xBF#8, 0xB7#8] ++
  [0x06#8, 0x44#8, 0x4C#8, 0x70#8, 0x7E#8, 0x66#8, 0xAF#8, 0x29#8, 0xD4#8, 0xF6#8, 0xAB#8, 0x1F#8, 0x1E#8, 0x1D#8, 0x1C#8, 0x1B#8] ++
  [0x1A#8, 0x19#8, 0x18#8, 0x17#8, 0x16#8, 0x15#8, 0x14#8, 0x13#8, 0x12#8, 0x11#8, 0x10#8, 0x0F#8, 0x0E#8, 0x0D#8, 0x0C#8, 0x0B#8] ++
  [0x0A#8, 0x09#8, 0x08#8, 0x07#8, 0x06#8, 0x05#8, 0x04#8, 0x03#8, 0x02#8, 0x01#8, 0x00#8, 0xC3#8, 0xBE#8, 0xC3#8, 0xBF#8, 0x20#8]

/-- The input of V-EX1. -/
def ex1Input : Bytes :=
  [0x89#8, 0x50#8, 0x4E#8, 0x47#8, 0x0D#8, 0x0A#8, 0x1A#8, 0x0A#8, 0x00#8, 0x00#8, 0x00#8, 0x0D#8, 0x49#8, 0x48#8, 0x44#8, 0x52#8] ++
  [0x00#8, 0x00#8, 0x00#8, 0x01#8, 0x00#8, 0x00#8, 0x00#8, 0x01#8, 0x08#8, 0x03#8, 0x00#8, 0x00#8, 0x00#8, 0x28#8, 0xCB#8, 0x34#8] ++
  [0xBB#8, 0x00#8, 0x00#8, 0x00#8, 0x03#8, 0x50#8, 0x4C#8, 0x54#8, 0x45#8, 0x01#8, 0xB8#8, 0xB1#8, 0x36#8, 0xC2#8, 0xF0#8, 0x47#8] ++
  [0x00#8, 0x00#8, 0x00#8, 0x0A#8, 0x49#8, 0x44#8, 0x41#8, 0x54#8, 0x18#8, 0x19#8, 0x63#8, 0x60#8, 0x00#8, 0x00#8, 0x00#8, 0x02#8] ++
  [0x00#8, 0x01#8, 0xB5#8, 0x8A#8, 0xE5#8, 0x01#8, 0x00#8, 0x00#8, 0x00#8, 0x00#8, 0x49#8, 0x45#8, 0x4E#8, 0x44#8, 0xAE#8, 0x42#8] ++
  [0x60#8, 0x82#8]

/-- The frame of V-EX1. -/
def ex1Frame : Bytes :=
  [0x00#8, 0x00#8, 0x00#8, 0x0C#8, 0x3D#8, 0x00#8, 0x00#8, 0x00#8, 0x32#8, 0x24#8, 0x54#8, 0x48#8, 0x49#8, 0x53#8, 0x49#8, 0x53#8] ++
  [0x4D#8, 0x41#8, 0x47#8, 0x49#8, 0x43#8, 0x4F#8, 0xC3#8, 0xBE#8, 0xC3#8, 0xBF#8, 0x2A#8, 0x00#8, 0x55#8, 0x1C#8, 0xAF#8, 0xF0#8] ++
  [0xDF#8, 0x6B#8, 0x48#8, 0x7C#8, 0xAD#8, 0x4D#8, 0x34#8, 0xCB#8, 0x28#8, 0x00#8, 0x00#8, 0x00#8, 0x03#8, 0x08#8, 0x01#8, 0x00#8] ++
  [0x00#8, 0x00#8, 0x01#8, 0x00#8, 0x00#8, 0x00#8, 0x52#8, 0x44#8, 0x48#8, 0x49#8, 0x0D#8, 0x00#8, 0x00#8, 0x00#8, 0x0A#8, 0x1A#8] ++
  [0x0A#8, 0x0D#8, 0x47#8, 0x4E#8, 0x50#8, 0x89#8, 0xC3#8, 0xBE#8, 0xC3#8, 0xBF#8, 0x82#8, 0x60#8, 0x42#8, 0xAE#8, 0x44#8, 0x4E#8] ++
  [0x45#8, 0x49#8, 0x00#8, 0x00#8, 0x00#8, 0x00#8, 0x01#8, 0xE5#8, 0x8A#8, 0xB5#8, 0x01#8, 0x00#8, 0x02#8, 0x00#8, 0x00#8, 0x00#8] ++
  [0x60#8, 0x63#8, 0x19#8, 0x18#8, 0x54#8, 0x41#8, 0x44#8, 0x49#8, 0x0A#8, 0x00#8, 0x00#8, 0x00#8, 0x47#8, 0xF0#8, 0xC2#8, 0x36#8] ++
  [0xB1#8, 0xB8#8, 0x01#8, 0x45#8, 0x54#8, 0x4C#8, 0x50#8, 0x03#8, 0x00#8, 0x00#8, 0x00#8, 0xBB#8]

/-- The token of V-EX1. -/
def ex1Token : Bytes :=
  [0x54#8, 0x48#8, 0x49#8, 0x53#8, 0x49#8, 0x53#8, 0x4D#8, 0x41#8, 0x47#8, 0x49#8, 0x43#8, 0x4F#8]

/-- The Frame of `X33` and `"K"`, field by field (2.5, 2.6). -/
def frameK : Frame :=
  { token := [0x4B#8], tokenLength := 1, tailLength := 1
    wholeDigest := [0xB7#8, 0x06#8, 0x44#8, 0x4C#8]
    headDigest := [0x70#8, 0x7E#8, 0x66#8, 0xAF#8]
    tailDigest := [0x29#8, 0xD4#8, 0xF6#8, 0xAB#8]
    headSegment := (upTo 32).reverse, tailSegment := [0x20#8] }

/-- The Frame of `X32` and the token `t` (2.5). -/
def frame32 (t : Bytes) : Frame :=
  { token := t, tokenLength := t.length, tailLength := 0
    wholeDigest := [0x70#8, 0x7E#8, 0x66#8, 0xAF#8]
    headDigest := [0x70#8, 0x7E#8, 0x66#8, 0xAF#8]
    tailDigest := [0x00#8, 0x00#8, 0x00#8, 0x00#8]
    headSegment := (upTo 32).reverse, tailSegment := [] }

/-- The default policies (R8, R9) and `MAX_LEN = n`. -/
def params (n : Nat) : Params := { strictFraming := false, trailingPolicy := .reject, maxLen := n }

/-- A block without a frame performing a request with operands `a`, `b`, `v`. -/
def bare (p : Params) (a b : Bytes) (v : Word64) : State :=
  { fr := none, fv := false, params := p, request := { cmd := 0#32, a := a, b := b, v := v }, inputs := []
    responses := [] }

/-- A block holding the frame `f`, performing such a request. -/
def holding (f : Frame) (p : Params) (a b : Bytes) : State :=
  { bare p a b 0#64 with fr := some f, fv := true }

/-- A block that has still to take the input `x`. -/
def waiting (x : PortInput) : State := { State.reset with inputs := [x] }

/-- The answer is a next state that passes the check. -/
def nextIs (o : Answer) (check : State → Bool) : Bool :=
  match o with
  | .next t => check t
  | .fault _ => false
  | .refused _ => false

/-- The answer is the state `s` with `r` answered and nothing else changed. -/
def answersOnly (o : Answer) (s : State) (r : Response) : Bool :=
  nextIs o fun t => t == { s with responses := s.responses ++ [r] }

/-! ## Well-formedness and decoding -/

/-- `MAX_LEN` below 62 is ill formed (R10). -/
theorem test_params_below_minimum_refused : ¬ (params 61).Legal := by decide

/-- `MAX_LEN` of 2^64 is ill formed (R10). -/
theorem test_params_above_maximum_refused : ¬ (params (2 ^ 64)).Legal := by decide

/-- Both ends of the range of `MAX_LEN` are legal (R10). -/
theorem test_params_ends_legal : (params 62).Legal ∧ (params (2 ^ 64 - 1)).Legal := by decide

/-- The words of the FWI, CRC and REV units, bit by bit: RSV, SEL, OP (R61, R62). -/
theorem test_decode_units :
    decode 0b00000000000000000000_0000_00000001#32 = .ok .fwiEnc ∧
    decode 0b00000000000000000000_0000_00000010#32 = .ok .fwiDec ∧
    decode 0b00000000000000000000_0000_00000011#32 = .ok .crc ∧
    decode 0b00000000000000000000_0000_00000100#32 = .ok .rev := by decide

/-- The words of the frame codec (R62). -/
theorem test_decode_codec :
    decode 0b00000000000000000000_0000_00010000#32 = .ok .build ∧
    decode 0b00000000000000000000_0000_00010001#32 = .ok .serialize ∧
    decode 0b00000000000000000000_0000_00010010#32 = .ok .parse ∧
    decode 0b00000000000000000000_0000_00010011#32 = .ok .original ∧
    decode 0b00000000000000000000_0000_00100000#32 = .ok .encodeFile ∧
    decode 0b00000000000000000000_0000_00100001#32 = .ok .decodeFile := by decide

/-- The words of FR_READ (R62). -/
theorem test_decode_frRead :
    decode 0b00000000000000000000_0000_00010100#32 = .ok .frReadToken ∧
    decode 0b00000000000000000000_0001_00010100#32 = .ok .frReadTlen ∧
    decode 0b00000000000000000000_0010_00010100#32 = .ok .frReadNlen ∧
    decode 0b00000000000000000000_0011_00010100#32 = .ok .frReadWdig ∧
    decode 0b00000000000000000000_0100_00010100#32 = .ok .frReadHdig ∧
    decode 0b00000000000000000000_0101_00010100#32 = .ok .frReadTdig ∧
    decode 0b00000000000000000000_0110_00010100#32 = .ok .frReadHseg ∧
    decode 0b00000000000000000000_0111_00010100#32 = .ok .frReadTseg := by decide

/-- Illegal words, each refused by its reason (R65; the words of 2.11). -/
theorem test_decode_illegal :
    decode 0x00000000#32 = .error .opNotInMap ∧ decode 0x00000015#32 = .error .opNotInMap ∧
    decode 0x00001011#32 = .error .reservedNotZero ∧ decode 0x80000003#32 = .error .reservedNotZero ∧
    decode 0x00000811#32 = .error .selNotZero ∧ decode 0x00000814#32 = .error .selOutOfRange := by decide

/-- The host's two entry points give the row's command, and one with too many bits gives none (R67). -/
theorem test_table_word :
    decodeTableWord 32 0x714 = some .frReadTseg ∧ decodeTableWord 16 0x714 = some .frReadTseg ∧
    decodeTableWord 64 0x714 = none ∧
    nextIs (step (State.reset.withFetchWord 32 0x3)) (fun t => t.responses == [.ok (.bytes (zs 4))]) = true := by
  decide +kernel

/-! ## Commands -/

/-- 2.1: `V = 0x12345678`. -/
theorem test_fwiEnc :
    answersOnly (exec .fwiEnc (bare (params 64) (zs 100) [] 0x12345678#64)) (bare (params 64) (zs 100) [] 0x12345678#64)
      (.ok (.bytes [0x12#8, 0x34#8, 0x56#8, 0x78#8])) = true := by decide +kernel

/-- 2.1: `V = 0x100000000` is ENCODING_ERROR. -/
theorem test_fwiEnc_tooBig :
    answersOnly (exec .fwiEnc (bare (params 64) [] [] 0x100000000#64)) (bare (params 64) [] [] 0x100000000#64)
      (.err .encodingError) = true := by decide +kernel

/-- 2.2: 8 bytes, and no sign extension of `80`. -/
theorem test_fwiDec :
    nextIs (exec .fwiDec (bare (params 64) (upTo 9).tail [] 0#64))
      (fun t => t.responses == [.ok (.value 0x0102030405060708#64)]) = true ∧
    nextIs (exec .fwiDec (bare (params 64) [0x80#8] [] 0#64))
      (fun t => t.responses == [.ok (.value 0x80#64)]) = true := by decide +kernel

/-- 2.2: 9 bytes are OPERAND_ERROR. -/
theorem test_fwiDec_nine :
    answersOnly (exec .fwiDec (bare (params 64) (zs 9) [] 0#64)) (bare (params 64) (zs 9) [] 0#64)
      (.err .operandError) = true := by decide +kernel

/-- 2.3: the check value and `X33`. -/
theorem test_crc :
    nextIs (exec .crc (bare (params 64) [0x31#8, 0x32#8, 0x33#8, 0x34#8, 0x35#8, 0x36#8, 0x37#8, 0x38#8, 0x39#8] [] 0#64))
      (fun t => t.responses == [.ok (.bytes [0xFC#8, 0x89#8, 0x19#8, 0x18#8])]) = true ∧
    digest (upTo 33) = [0xB7#8, 0x06#8, 0x44#8, 0x4C#8] := by decide +kernel

/-- 2.12: CRC of 65 bytes with `MAX_LEN = 64` is CAPACITY_ERROR. -/
theorem test_crc_capacity :
    answersOnly (exec .crc (bare (params 64) (zs 65) [] 0#64)) (bare (params 64) (zs 65) [] 0#64)
      (.err .capacityError) = true := by decide +kernel

/-- 2.4: REV of `fc891918`. -/
theorem test_rev :
    answersOnly (exec .rev (bare (params 64) [0xFC#8, 0x89#8, 0x19#8, 0x18#8] [] 0#64))
      (bare (params 64) [0xFC#8, 0x89#8, 0x19#8, 0x18#8] [] 0#64)
      (.ok (.bytes [0x18#8, 0x19#8, 0x89#8, 0xFC#8])) = true := by decide +kernel

/-- 2.5: BUILD of `X33` and `"K"` over an unconsumed frame. -/
theorem test_build :
    nextIs (exec .build (holding (frame32 []) (params 64) (upTo 33) [0x4B#8]))
      (fun t => t.fr == some frameK && t.fv && t.responses == [.ok .none]) = true := by decide +kernel

/-- 2.5 and V-EX3: BUILD of `X31` is FORMAT_ERROR and leaves FR and FV. -/
theorem test_build_short :
    answersOnly (exec .build (holding frameK (params 64) (upTo 31) [])) (holding frameK (params 64) (upTo 31) [])
      (.err .formatError) = true := by decide +kernel

/-- 2.6: SERIALIZE of the frame of `X33` and `"K"` gives `FK` and clears FV; FR then holds no value (R24). -/
theorem test_serialize :
    nextIs (exec .serialize (holding frameK (params 64) [] []))
      (fun t => t.responses == [.ok (.bytes fk)] && !t.fv && t.fr == none) = true := by
  decide +kernel

/-- 2.6: SERIALIZE with `FV = 0` is NO_FRAME, whatever FR held (R24). -/
theorem test_serialize_noFrame :
    nextIs (exec .serialize { holding frameK (params 64) [] [] with fv := false })
      (fun t => t.responses == [.err .noFrame]) = true := by decide +kernel

/-- 2.7 P5: the second marker drifted: parsed permissively as P1, rejected strictly. -/
theorem test_parse_drift :
    nextIs (exec .parse (bare (params 64) (f64.set 60 0#8) [] 0#64))
      (fun t => t.fr == some (frame32 [0x41#8, 0x42#8]) && t.fv) = true ∧
    nextIs (exec .parse (bare { params 64 with strictFraming := true } (f64.set 60 0#8) [] 0#64))
      (fun t => t.responses == [.err .formatError] && !t.fv) = true := by decide +kernel

/-- 2.7 P6, P7 and P11: a trailing byte under both policies, and `T = 0xFFFFFFFF`, whose sum does not wrap. -/
theorem test_parse_lengths :
    nextIs (exec .parse (bare (params 65) (f64 ++ [0#8]) [] 0#64))
      (fun t => t.responses == [.err .formatError]) = true ∧
    nextIs (exec .parse (bare { params 65 with trailingPolicy := .ignore } (f64 ++ [0#8]) [] 0#64))
      (fun t => t.fr == some (frame32 [0x41#8, 0x42#8])) = true ∧
    nextIs (exec .parse (bare (params 64) ([0xFF#8, 0xFF#8, 0xFF#8, 0xFF#8] ++ zs 58) [] 0#64))
      (fun t => t.responses == [.err .formatError]) = true := by decide +kernel

/-- 2.8: ORIGINAL of the frame of `FK` gives `X33` and clears FV; FR then holds no value (R24). -/
theorem test_original :
    nextIs (exec .original (holding frameK (params 64) [] []))
      (fun t => t.responses == [.ok (.bytes (upTo 33))] && !t.fv && t.fr == none) = true := by decide +kernel

/-- 2.9: all eight fields, and FV stays 1. -/
theorem test_frRead :
    (([.frReadToken, .frReadTlen, .frReadNlen, .frReadWdig, .frReadHdig, .frReadTdig, .frReadHseg, .frReadTseg] :
        List Instr).zip
      [.ok (.bytes [0x4B#8]), .ok (.value 1#64), .ok (.value 1#64), .ok (.bytes [0xB7#8, 0x06#8, 0x44#8, 0x4C#8]),
        .ok (.bytes [0x70#8, 0x7E#8, 0x66#8, 0xAF#8]), .ok (.bytes [0x29#8, 0xD4#8, 0xF6#8, 0xAB#8]),
        .ok (.bytes (upTo 32).reverse), .ok (.bytes [0x20#8])]).all
      (fun x => answersOnly (exec x.1 (holding frameK (params 64) [] [])) (holding frameK (params 64) [] []) x.2)
      = true := by decide +kernel

/-- 2.10: ENCODE_FILE of V-EX1 gives the 124-byte frame. -/
theorem test_encodeFile :
    answersOnly (exec .encodeFile (bare (params 124) ex1Input ex1Token 0#64)) (bare (params 124) ex1Input ex1Token 0#64)
      (.ok (.bytes ex1Frame)) = true := by decide +kernel

/-- 2.12: ENCODE_FILE of `X33` and `"AB"` with `MAX_LEN = 64` is CAPACITY_ERROR. -/
theorem test_encodeFile_capacity :
    answersOnly (exec .encodeFile (bare (params 64) (upTo 33) [0x41#8, 0x42#8] 0#64))
      (bare (params 64) (upTo 33) [0x41#8, 0x42#8] 0#64) (.err .capacityError) = true := by decide +kernel

/-- 2.10: DECODE_FILE of the V-EX1 frame gives the input. -/
theorem test_decodeFile :
    answersOnly (exec .decodeFile (bare (params 124) ex1Frame [] 0#64)) (bare (params 124) ex1Frame [] 0#64)
      (.ok (.bytes ex1Input)) = true := by decide +kernel

/-- 2.11: an illegal word with `FV = 0` is ILLEGAL_COMMAND, not NO_FRAME. -/
theorem test_step_illegal :
    nextIs (step (waiting (.request { Request.blank with cmd := 0x00000811#32 })))
      (fun t => t.responses == [.err .illegalCommand] && !t.fv && t.inputs == []) = true := by decide +kernel

/-! ## Witnesses of the statements' hypotheses -/

/-- A request of the command word `w` with operands `a` and `b`. -/
def req (w : Word32) (a b : Bytes) : Request := { cmd := w, a := a, b := b, v := 0#64 }

theorem frameK_wellFormed : frameK.WellFormed := by decide

theorem inv_holding_frameK : (holding frameK (params 64) [] []).Inv :=
  ⟨by decide, fun _ => ⟨frameK, rfl, by decide, by decide⟩, fun h => by cases h⟩

theorem inv_bare : (bare (params 64) [] [] 0#64).Inv := ⟨by decide, nofun, fun _ => rfl⟩

theorem witness_DecodeAndEncodeAgree : Instr.wf .crc = true ∧ decode 0x00000714#32 = .ok .frReadTseg := by decide

theorem witness_IllegalWordsRaiseIllegalCommand :
    (waiting (.request (req 0x00000814#32 [] []))).inputs = .request (req 0x00000814#32 [] []) :: [] ∧
    decode (req 0x00000814#32 [] []).cmd = .error .selOutOfRange := ⟨rfl, by decide⟩

theorem witness_StepRunsTheDecodedCommand :
    (waiting (.request (req 0x00000714#32 [] []))).inputs = .request (req 0x00000714#32 [] []) :: [] ∧
    decode (req 0x00000714#32 [] []).cmd = .ok .frReadTseg ∧ Instr.wf .frReadTseg = true := ⟨rfl, by decide, rfl⟩

theorem witness_ResetClearsTheFrameRegister : (waiting .reset).inputs = .reset :: [] := rfl

theorem witness_IdleBlockWaits : State.reset.inputs = [] := rfl

theorem witness_FwiEncEncodesOrFails :
    (params 62).Legal ∧ (bare (params 62) [] [] 0xFFFFFFFF#64).request.v.toNat ≤ 0xFFFFFFFF ∧
    0xFFFFFFFF < (bare (params 62) [] [] 0x100000000#64).request.v.toNat := by decide

theorem witness_FwiDecDecodesOrFails :
    (params 62).Legal ∧ (zs 8).length ≤ 8 ∧ (8 < (zs 9).length ∧ (zs 9).length ≤ (params 62).maxLen) ∧
    (8 < (zs 62).length ∧ (zs 62).length ≤ (params 62).maxLen) ∧ (params 62).maxLen < (zs 63).length := by decide

theorem witness_FwiLawsHold :
    (0 : Nat) ≤ 0xFFFFFFFF ∧ 0xFFFFFFFF < (0x100000000 : Nat) ∧ (zs 4).length = 4 ∧ (zs 8).length ≤ 8 ∧
    3 + (zs 5).length ≤ 8 := by decide

theorem witness_CrcReturnsTheDigest :
    (params 62).Legal ∧ (zs 62).length ≤ (params 62).maxLen ∧ (params 62).maxLen < (zs 63).length := by decide

theorem witness_CrcIsAffine : (upTo 3).length = (zs 3).length ∧ (zs 3).length = [1#8, 2#8, 3#8].length := by decide

theorem witness_RevReversesTheBytes :
    (params 62).Legal ∧ (zs 62).length ≤ (params 62).maxLen ∧ 61 < (zs 62).length ∧
    (params 62).maxLen < (zs 63).length := by decide

theorem witness_BuildLoadsTheFrame :
    ((upTo 32).length ≤ (params 62).maxLen ∧ (zs 62).length ≤ (params 62).maxLen ∧ 32 ≤ (upTo 32).length) ∧
    (upTo 31).length < 32 ∧ (params 62).maxLen < (zs 63).length := by decide

/-- A well-formed frame whose token is one byte too long to encode. -/
def hugeFrame : Frame := { frame32 [] with token := List.replicate 0x100000000 0#8, tokenLength := 0x100000000 }

theorem hugeFrame_wellFormed : hugeFrame.WellFormed := by
  refine ⟨?_, by decide, by decide, by decide, by decide, by decide⟩
  simp only [hugeFrame, List.length_replicate]

theorem witness_SerializeEmitsAndConsumes :
    (bare (params 62) [] [] 0#64).fv = false ∧
    ((holding (frame32 []) (params 62) [] []).fv = true ∧ (frame32 []).WellFormed ∧
      62 + (frame32 []).tokenLength + (frame32 []).tailLength ≤ (params 62).maxLen) ∧
    (hugeFrame.WellFormed ∧ 0xFFFFFFFF < hugeFrame.tokenLength) ∧
    ((frame32 [0#8]).WellFormed ∧ (frame32 [0#8]).tokenLength ≤ 0xFFFFFFFF ∧
      (params 62).maxLen < 62 + (frame32 [0#8]).tokenLength + (frame32 [0#8]).tailLength) :=
  ⟨rfl, by decide, ⟨hugeFrame_wellFormed, by decide⟩, by decide⟩

theorem witness_SerializedFieldsStandAtTheirOffsets :
    frameK.WellFormed ∧ frameK.tokenLength ≤ 0xFFFFFFFF ∧ frameK.tailLength ≤ 0xFFFFFFFF := by decide

theorem witness_BuiltFrameLength :
    build (upTo 33) [0x4B#8] = .ok frameK ∧ serialize frameK = .ok fk := by decide +kernel

theorem accepts_zero62 : ParseAccepts (params 62) (zs 62) := by unfold ParseAccepts; decide +kernel

theorem accepts_fk : ParseAccepts { params 64 with strictFraming := true } fk := by unfold ParseAccepts; decide +kernel

theorem witness_ParseLoadsOrRejects :
    ((zs 62).length ≤ (params 62).maxLen ∧ ParseAccepts (params 62) (zs 62)) ∧
    ((zs 61).length ≤ (params 62).maxLen ∧ ¬ ParseAccepts (params 62) (zs 61)) :=
  ⟨⟨by decide, accepts_zero62⟩, by decide, by unfold ParseAccepts; decide +kernel⟩

theorem witness_ParsingChecksBothOperandLengths :
    (params 62).maxLen < (bare (params 62) (zs 63) [] 0#64).request.a.length ∧
    (params 62).maxLen < (bare (params 62) f62 (zs 63) 0#64).request.b.length := by decide

theorem witness_OriginalReturnsAndConsumes :
    (bare (params 64) [] [] 0#64).Inv ∧ (holding frameK (params 64) [] []).Inv ∧
    (holding frameK (params 64) [] []).fr = some frameK := ⟨inv_bare, inv_holding_frameK, rfl⟩

theorem witness_FrReadReturnsTheField :
    8 ≤ (8#4).toNat ∧ (bare (params 64) [] [] 0#64).Inv ∧ (holding frameK (params 64) [] []).Inv ∧
    (holding frameK (params 64) [] []).fv = true := ⟨by decide, inv_bare, inv_holding_frameK, rfl⟩

theorem witness_EncodeFileComposesBuildAndSerialize :
    (params 62).maxLen < (zs 63).length ∧ (upTo 31).length < 32 ∧
    (32 ≤ (zs 32).length ∧ 0xFFFFFFFF < (List.replicate 0x100000000 0#8).length ∧
      (List.replicate 0x100000000 0#8).length ≤ (params 0x100000000).maxLen) ∧
    (32 ≤ (upTo 32).length ∧ 30 + ([] : Bytes).length + (upTo 32).length ≤ (params 62).maxLen ∧
      (params 62).maxLen < 30 + [0#8].length + (upTo 32).length) := by
  refine ⟨by decide, by decide, ⟨by decide, ?_, ?_⟩, by decide⟩ <;> rw [List.length_replicate] <;> decide

theorem witness_DecodeFileComposesParseAndOriginal :
    (fk.length ≤ (params 64).maxLen ∧ ParseAccepts { params 64 with strictFraming := true } fk) ∧
    ¬ ParseAccepts (params 62) (zs 61) :=
  ⟨⟨by decide, accepts_fk⟩, by unfold ParseAccepts; decide +kernel⟩

theorem witness_RoundTripRecoversTheOriginal :
    32 ≤ (upTo 33).length ∧ build (upTo 33) [0x4B#8] = .ok frameK ∧ serialize frameK = .ok fk := by decide +kernel

theorem witness_RoundTripThroughTheFrameRegister :
    (params 64).Legal ∧ 32 ≤ (bare (params 64) (upTo 33) [0x4B#8] 0#64).request.a.length ∧
    (bare (params 64) (upTo 33) [0x4B#8] 0#64).request.b.length ≤ 0xFFFFFFFF ∧
    30 + [0x4B#8].length + (upTo 33).length ≤ (params 64).maxLen ∧
    (req 0x00000012#32 [] []).b.length ≤ (params 64).maxLen := by decide

theorem parse_fk : parse { params 64 with strictFraming := true } fk = .ok frameK := by decide +kernel

theorem witness_ReserializingRestoresTheFraming :
    parse { params 64 with strictFraming := true } fk = .ok frameK ∧ fk[4]? = some 0x3D#8 ∧ fk[9]? = some 0x24#8 ∧
    (fk.drop (10 + frameK.tokenLength)).take 4 = [0xC3#8, 0xBE#8, 0xC3#8, 0xBF#8] ∧
    (fk.drop (58 + frameK.tokenLength)).take 4 = [0xC3#8, 0xBE#8, 0xC3#8, 0xBF#8] ∧
    fk.length = 62 + frameK.tokenLength + frameK.tailLength := ⟨parse_fk, by decide⟩

theorem witness_ParseNeverRaisesEncodingError :
    parse { params 64 with strictFraming := true } fk = .ok frameK ∧
    nextIs (exec .parse (bare (params 64) fk [] 0#64)) (fun _ => true) = true := ⟨parse_fk, by decide +kernel⟩

theorem witness_DigestsAreNeverChecked :
    parse { params 64 with strictFraming := true } fk = .ok frameK ∧ (zs 12).length = 12 := ⟨parse_fk, by decide⟩

theorem witness_ExpectedTokenIsNeverCompared :
    Instr.decodeFile ∈ [Instr.parse, .decodeFile] ∧
    (bare (params 64) fk [] 0#64).request.b.length ≤ (params 64).maxLen ∧ (zs 64).length ≤ (params 64).maxLen := by
  decide

theorem witness_StricterParametersOnlyRejectMore :
    parse { params 64 with strictFraming := true } fk = .ok frameK := parse_fk

theorem witness_CommandsChangeOnlyWhatTheyWrite :
    (exec .original (holding frameK (params 64) [] []) = .next
      ((holding frameK (params 64) [] []).consumeFrame.respond (.ok (.bytes (original frameK))))) ∧
    nextIs (exec .build (bare (params 64) (upTo 32) [] 0#64)) (fun t => t.fv) = true ∧
    (exec .frReadTlen (holding frameK (params 64) [] []) = .next
      ((holding frameK (params 64) [] []).respond (.ok (.value 1#64)))) ∧
    (Instr.frReadTlen ≠ .build ∧ Instr.frReadTlen ≠ .parse ∧ Instr.frReadTlen ≠ .serialize ∧
      Instr.frReadTlen ≠ .original) := ⟨rfl, by decide +kernel, rfl, by decide⟩

theorem witness_FvIsWrittenExactlyAsItsRuleSays :
    (exec .original (holding frameK (params 64) [] []) = .next
      ((holding frameK (params 64) [] []).consumeFrame.respond (.ok (.bytes (original frameK))))) ∧
    Instr.needsFrame .original = true ∧ (bare (params 64) [] [] 0#64).fv = false ∧
    step (waiting .reset) = .next ((waiting .reset).acceptReset []) ∧
    (holding frameK (params 64) [] []).Inv := ⟨rfl, rfl, rfl, rfl, inv_holding_frameK⟩

theorem witness_ErrorsWriteNothing :
    exec .original (bare (params 64) [] [] 0#64) =
      .next ((bare (params 64) [] [] 0#64).respond (.err .noFrame)) ∧
    ((bare (params 64) [] [] 0#64).respond (.err .noFrame)).responses =
      (bare (params 64) [] [] 0#64).responses ++ [.err .noFrame] ∧
    nextIs (step (waiting (.request (req 0x00000815#32 [] []))))
      (fun t => t.responses == [] ++ [.err .illegalCommand]) = true := ⟨rfl, rfl, by decide +kernel⟩

theorem witness_ErrorsAreRaisedOnlyByTheirCommands :
    exec .original (bare (params 64) [] [] 0#64) =
      .next ((bare (params 64) [] [] 0#64).respond (.err .noFrame)) ∧
    nextIs (step (waiting (.request (req 0x00000013#32 [] []))))
      (fun t => t.responses == [] ++ [.err .noFrame]) = true := ⟨rfl, by decide +kernel⟩

theorem witness_FirstApplyingErrorIsReported :
    (bare (params 64) [] [] 0#64).Inv ∧ FirstError .original (bare (params 64) [] [] 0#64) .noFrame ∧
    (holding frameK (params 64) [] []).Inv ∧
    ∀ e, ¬ FirstError .original (holding frameK (params 64) [] []) e := by
  refine ⟨inv_bare, .inr (.inl ⟨?_, rfl, rfl, rfl⟩), inv_holding_frameK, fun e h => ?_⟩
  · simp [operandTooLong, Instr.usesA, Instr.usesB]
  · simp [FirstError, operandTooLong, Instr.usesA, Instr.usesB, holding, ownError, resultTooLong] at h

theorem witness_CapacityBoundsOperandsAndResults :
    (exec .original (holding frameK (params 64) [] []) = .next
      ((holding frameK (params 64) [] []).consumeFrame.respond (.ok (.bytes (original frameK))))) ∧
    operandTooLong .crc (bare (params 64) (zs 65) [] 0#64) := ⟨rfl, .inl (by decide)⟩

theorem witness_UnlistedRequestFieldsAreIgnored :
    Instr.usesA .original = false ∧ Instr.usesB .original = false ∧ Instr.usesV .original = false ∧
    (exec .original (holding frameK (params 64) [] []) = .next
      ((holding frameK (params 64) [] []).consumeFrame.respond (.ok (.bytes (original frameK))))) :=
  ⟨rfl, rfl, rfl, rfl⟩

theorem witness_OnlyFrAndFvPersist :
    (holding frameK (params 64) [] []).fr =
      { holding frameK (params 64) [] [] with responses := [.err .noFrame] }.fr ∧
    (exec .original (holding frameK (params 64) [] []) = .next
      ((holding frameK (params 64) [] []).consumeFrame.respond (.ok (.bytes (original frameK))))) := ⟨rfl, rfl⟩

theorem witness_FrIsUnreadableWhileFvIsZero :
    (bare (params 64) [] [] 0#64).Inv ∧ step (bare (params 64) [] [] 0#64) = .next (bare (params 64) [] [] 0#64) ∧
    (bare (params 64) [] [] 0#64).fv = false ∧
    (exec .original (holding frameK (params 64) [] []) = .next
      ((holding frameK (params 64) [] []).consumeFrame.respond (.ok (.bytes (original frameK))))) ∧
    Instr.crc ≠ .build ∧ Instr.crc ≠ .parse := ⟨inv_bare, rfl, rfl, rfl, by decide⟩

theorem witness_LoadingOverwritesTheSlot :
    nextIs (exec .build (holding frameK (params 64) (upTo 32) []))
      (fun t => t.responses == [] ++ [.ok .none]) = true := by decide +kernel

theorem witness_ConsumedFrameIsGone :
    (exec .original (holding frameK (params 64) [] []) = .next
      ((holding frameK (params 64) [] []).consumeFrame.respond (.ok (.bytes (original frameK))))) ∧
    (Response.ok (.bytes (original frameK))).isOk = true ∧ Instr.needsFrame .frReadToken = true := ⟨rfl, rfl, rfl⟩

theorem witness_FailedLoadLeavesTheOldFrame :
    (holding frameK (params 64) [] []).Inv ∧ (holding frameK (params 64) [] []).fv = true ∧
    exec .build (holding frameK (params 64) [] []) =
      .next ((holding frameK (params 64) [] []).respond (.err .formatError)) ∧
    Instr.needsFrame .serialize = true := ⟨inv_holding_frameK, rfl, rfl, rfl⟩

theorem witness_NoFrameUntilALoadSucceeds :
    (waiting (.request (req 0x00000012#32 fk []))).fv = false ∧
    nextIs (step (waiting (.request (req 0x00000012#32 fk [])))) (fun t => t.fv) = true := ⟨rfl, by decide +kernel⟩

theorem witness_BuiltFramesCarryTrueDigests :
    nextIs (exec .build (bare (params 64) (upTo 33) [0x4B#8] 0#64))
      (fun t => t.responses == [] ++ [.ok .none]) = true ∧
    nextIs (exec .parse (bare (params 64) fk [] 0#64)) (fun t => t.responses == [] ++ [.ok .none]) = true := by
  decide +kernel

theorem witness_ParametersNeverChange : step State.reset = .next State.reset := rfl

theorem witness_InvariantHoldsAtReset : (params 62).Legal := by decide

theorem witness_EveryStepKeepsTheInvariant :
    (bare (params 64) [] [] 0#64).Inv ∧
    nextIs (step { bare (params 64) [] [] 0#64 with inputs := [.request (req 0x00000012#32 fk [])] })
      (fun t => t.fv) = true := ⟨inv_bare, by decide +kernel⟩

theorem witness_EveryStepAnswers :
    { bare (params 64) [] [] 0#64 with inputs := [.request (req 0x00000012#32 fk [])] }.Inv :=
  ⟨by decide, nofun, fun _ => rfl⟩

theorem witness_EveryRequestIsAnsweredInOrder :
    { bare (params 64) [] [] 0#64 with inputs := [.request (req 0x00000012#32 fk []), .reset] }.Inv ∧
    Sys2Proof.core.run 0 (bare (params 64) [] [] 0#64) = .next (bare (params 64) [] [] 0#64) :=
  ⟨⟨by decide, nofun, fun _ => rfl⟩, rfl⟩

end Sys2Proof.Tests
end

section
/-! PROOFS. The frame register and its flag (10_state.md R23, R24). -/

namespace Sys2Proof.Machine
open Sys2Proof

variable {s t : State} {i : Instr}

/-! ## The flag after a command -/

@[simp] theorem Response.isOk_ok (res : Result) : (Response.ok res).isOk = true := rfl

@[simp] theorem Response.isOk_err (e : ErrorKind) : (Response.err e).isOk = false := rfl

theorem loadsFrame_iff : i.loadsFrame = true ↔ i = .build ∨ i = .parse := by simp [Instr.loadsFrame]

theorem consumesFrame_iff : i.consumesFrame = true ↔ i = .serialize ∨ i = .original := by
  simp [Instr.consumesFrame]

/-- No command both loads and consumes a frame. -/
theorem consumesFrame_of_loadsFrame (h : i.loadsFrame = true) : i.consumesFrame = false := by
  rcases loadsFrame_iff.mp h with rfl | rfl <;> rfl

theorem loadsFrame_of_consumesFrame (h : i.consumesFrame = true) : i.loadsFrame = false := by
  rcases consumesFrame_iff.mp h with rfl | rfl <;> rfl

/-- What R23 says of the flag, for the response `r` of a command that has answered. -/
def FvRule (i : Instr) (s t : State) (r : Response) : Prop :=
  (r.isOk = true → i.loadsFrame = true → t.fv = true ∧ ∃ f, t.fr = some f) ∧
  (r.isOk = true → i.consumesFrame = true → t.fv = false) ∧
  (r.isOk = false ∨ (i.loadsFrame = false ∧ i.consumesFrame = false) → t.fv = s.fv)

/-- Each of the four effects of a command keeps R23. -/
theorem Effect.fvRule (h : Effect i s t) : ∃ r, t.responses = s.responses ++ [r] ∧ FvRule i s t r := by
  rcases h with ⟨e, rfl⟩ | ⟨hl, hc, res, rfl, -⟩ | ⟨hl, f, -, rfl, -⟩ | ⟨hc, -, r, rfl, -⟩
  · exact ⟨.err e, by simp [FvRule]⟩
  · exact ⟨.ok res, by simp [FvRule, hl, hc]⟩
  · exact ⟨.ok .none, by simp [FvRule, hl, consumesFrame_of_loadsFrame hl]⟩
  · exact ⟨.ok (.bytes r), by simp [FvRule, hc, loadsFrame_of_consumesFrame hc]⟩

/-- A command that loads no frame leaves `FV` at 0. -/
theorem Effect.fv_false (h : Effect i s t) (hl : i.loadsFrame = false) (hv : s.fv = false) : t.fv = false := by
  rcases h with ⟨e, rfl⟩ | ⟨-, -, res, rfl, -⟩ | ⟨hl', -⟩ | ⟨-, hv', -⟩
  · exact hv
  · exact hv
  · simp [hl] at hl'
  · simp [hv] at hv'

/-- The only success of SERIALIZE and ORIGINAL is the consumption of the frame (R23). -/
theorem Effect.consumed {res : Result} (h : Effect i s t) (hc : i.consumesFrame = true)
    (hr : t.responses = s.responses ++ [.ok res]) : t = s.consumeFrame.respond (.ok res) := by
  rcases h with ⟨e, rfl⟩ | ⟨-, hc', -⟩ | ⟨hl, -⟩ | ⟨-, -, r, rfl, -⟩
  · simp at hr
  · simp [hc] at hc'
  · simp [loadsFrame_of_consumesFrame hc] at hl
  · have hres : res = .bytes r := by simpa using hr.symm
    rw [hres]

/-- R23: the commands that read `FV` raise NO_FRAME when they find it 0. -/
theorem exec_noFrame (hn : i.needsFrame = true) (hv : s.fv = false) :
    exec i s = .next (s.respond (.err .noFrame)) := by
  cases i with
  | serialize | original | frReadToken | frReadTlen | frReadNlen | frReadWdig | frReadHdig | frReadTdig
  | frReadHseg | frReadTseg => exact withFrame_noFrame hv
  | fwiEnc | fwiDec | crc | rev | build | parse | encodeFile | decodeFile => cases hn

/-- A step that takes a reset is the reset. -/
theorem step_reset {rest : List PortInput} (h : s.inputs = .reset :: rest) :
    step s = .next (s.acceptReset rest) := by
  simp [step, h]

/-! ## The invariant -/

/-- A command that answers keeps the invariant (R22 (a), R24). -/
theorem Effect.inv (hs : s.Inv) (h : Effect i s t) : t.Inv := by
  have hlegal : s.params.Legal := hs.1
  rcases h with ⟨e, rfl⟩ | ⟨-, -, res, rfl, -⟩ | ⟨-, f, hw, rfl, hfit⟩ | ⟨-, -, r, rfl, -⟩
  · exact hs
  · exact hs
  · exact ⟨hlegal, fun _ => ⟨f, rfl, hw, hfit hlegal⟩, nofun⟩
  · exact ⟨hlegal, nofun, fun _ => rfl⟩

/-- A step keeps the invariant. -/
theorem step_inv (hs : s.Inv) (h : step s = .next t) : t.Inv := by
  rcases step_next h with ⟨-, rfl⟩ | ⟨rest, -, rfl⟩ | ⟨r, rest, -, ⟨i, -, h⟩ | ⟨why, -, rfl⟩⟩
  · exact hs
  · exact ⟨hs.1, nofun, fun _ => rfl⟩
  · exact Effect.inv (s := s.accept r rest) hs (exec_next h)
  · exact hs

theorem State.Inv.fr_some (hs : s.Inv) (hv : s.fv = true) : ∃ f, s.fr = some f := by
  obtain ⟨-, hframe, -⟩ := hs
  obtain ⟨f, hf, -⟩ := hframe hv
  exact ⟨f, hf⟩

theorem State.Inv.fr_none (hs : s.Inv) (hv : s.fv = false) : s.fr = none := by
  obtain ⟨-, -, hempty⟩ := hs
  exact hempty hv

/-! ## Commands that do not read the register -/

/-- `u` has the parameters and the request of `s`. -/
structure SameOperands (s u : State) : Prop where
  params : u.params = s.params
  request : u.request = s.request

/-- In every state with the operands of `s`, whatever `FR` and `FV` hold, `k` gives one and the same response, and
either writes nothing else or loads one and the same frame. -/
def RepliesAlike (s : State) (k : State → Answer) : Prop :=
  (∃ r, ∀ u, SameOperands s u → k u = .next (u.respond r)) ∨
  (∃ f, ∀ u, SameOperands s u → k u = .next ((u.loadFrame f).respond (.ok .none)))

theorem RepliesAlike.congr {k k' : State → Answer} (hk : RepliesAlike s k)
    (h : ∀ u, SameOperands s u → k' u = k u) : RepliesAlike s k' := by
  rcases hk with ⟨r, hk⟩ | ⟨f, hk⟩
  · exact .inl ⟨r, fun u hu => (h u hu).trans (hk u hu)⟩
  · exact .inr ⟨f, fun u hu => (h u hu).trans (hk u hu)⟩

theorem repliesAlike_respond (r : Response) : RepliesAlike s fun u => .next (u.respond r) :=
  .inl ⟨r, fun _ _ => rfl⟩

theorem repliesAlike_load (f : Frame) : RepliesAlike s fun u => returnNone (u.loadFrame f) :=
  .inr ⟨f, fun _ _ => rfl⟩

theorem repliesAlike_returnBytes (r : Bytes) : RepliesAlike s fun u => returnBytes r u u := by
  rcases Nat.lt_or_ge s.params.maxLen r.length with hl | hl
  · exact (repliesAlike_respond (.err .capacityError)).congr fun u hu =>
      returnBytes_tooLong (by rwa [hu.params])
  · exact (repliesAlike_respond (.ok (.bytes r))).congr fun u hu => returnBytes_fits (by rwa [hu.params])

/-- FWI_DEC after its capacity check, on the operand `p`. -/
theorem repliesAlike_decode (p : Bytes) :
    RepliesAlike s fun u => if Config.decodeMax < p.length then raise .operandError u
      else returnValue (BitVec.ofNat 64 (unbe p)) u := by
  split
  · exact repliesAlike_respond (.err .operandError)
  · exact repliesAlike_respond (.ok (.value _))

theorem repliesAlike_orRaise {α : Type} {k : α → State → Answer} (x : Except ErrorKind α)
    (hk : ∀ v, RepliesAlike s (k v)) : RepliesAlike s fun u => orRaise x u fun v => k v u := by
  cases x with
  | error e => exact repliesAlike_respond (.err e)
  | ok v => exact hk v

theorem repliesAlike_useA {k : State → Answer} (hk : RepliesAlike s k) :
    RepliesAlike s fun u => useA u (k u) := by
  rcases Nat.lt_or_ge s.params.maxLen s.request.a.length with hl | hl
  · exact (repliesAlike_respond (.err .capacityError)).congr fun u hu =>
      useBuffer_tooLong (by rwa [hu.params, State.opA, hu.request])
  · exact hk.congr fun u hu => useBuffer_fits (by rwa [hu.params, State.opA, hu.request])

theorem repliesAlike_useAB {k : State → Answer} (hk : RepliesAlike s k) :
    RepliesAlike s fun u => useAB u (k u) := by
  by_cases hl : s.params.maxLen < s.request.a.length ∨ s.params.maxLen < s.request.b.length
  · exact (repliesAlike_respond (.err .capacityError)).congr fun u hu =>
      useAB_tooLong (by rwa [hu.params, hu.request])
  · exact hk.congr fun u hu =>
      useAB_fits (by rw [hu.params, hu.request]; omega) (by rw [hu.params, hu.request]; omega)

/-- A command that is not guarded by `FV` reads neither `FR` nor `FV` (R24). -/
theorem exec_repliesAlike (s : State) (hn : i.needsFrame = false) : RepliesAlike s (exec i) := by
  cases i with
  | fwiEnc =>
    refine (repliesAlike_orRaise (be4 s.opV.toNat) repliesAlike_returnBytes).congr fun u hu => ?_
    simp only [exec, execFwiEnc, State.opV, hu.request]
  | fwiDec =>
    refine (repliesAlike_useA (repliesAlike_decode s.opA)).congr fun u hu => ?_
    simp only [exec, execFwiDec, State.opA, hu.request]
  | crc =>
    refine (repliesAlike_useA (repliesAlike_returnBytes (digest s.opA))).congr fun u hu => ?_
    simp only [exec, execCrc, State.opA, hu.request]
  | rev =>
    refine (repliesAlike_useA (repliesAlike_returnBytes (rev s.opA))).congr fun u hu => ?_
    simp only [exec, execRev, State.opA, hu.request]
  | build =>
    refine (repliesAlike_useAB
      (repliesAlike_orRaise (build s.opA s.opB) repliesAlike_load)).congr fun u hu => ?_
    simp only [exec, execBuild, State.opA, State.opB, hu.request]
  | parse =>
    refine (repliesAlike_useAB
      (repliesAlike_orRaise (parse s.params s.opA) repliesAlike_load)).congr fun u hu => ?_
    simp only [exec, execParse, State.opA, hu.params, hu.request]
  | encodeFile =>
    refine (repliesAlike_useAB
      (repliesAlike_orRaise (build s.opA s.opB) fun f =>
        repliesAlike_orRaise (serialize f) repliesAlike_returnBytes)).congr fun u hu => ?_
    simp only [exec, execEncodeFile, State.opA, State.opB, hu.request]
  | decodeFile =>
    refine (repliesAlike_useAB
      (repliesAlike_orRaise (parse s.params s.opA) fun f =>
        repliesAlike_returnBytes (original f))).congr fun u hu => ?_
    simp only [exec, execDecodeFile, State.opA, hu.params, hu.request]
  | serialize | original | frReadToken | frReadTlen | frReadNlen | frReadWdig | frReadHdig | frReadTdig
  | frReadHseg | frReadTseg => cases hn

/-- While `FV = 0` every command answers, and does the same whatever `FR` holds (R24). -/
theorem exec_ignores_fr (i : Instr) (s : State) (g : Option Frame) (hv : s.fv = false) :
    ∃ t t', exec i s = .next t ∧ exec i { s with fr := g } = .next t' ∧
      t'.responses = t.responses ∧ t'.fv = t.fv ∧ t'.frame = t.frame := by
  cases hn : i.needsFrame with
  | true => exact ⟨_, _, exec_noFrame hn hv, exec_noFrame hn hv, rfl, rfl, by simp [State.frame, hv]⟩
  | false =>
    rcases exec_repliesAlike s hn with ⟨r, h⟩ | ⟨f, h⟩
    · exact ⟨_, _, h s ⟨rfl, rfl⟩, h { s with fr := g } ⟨rfl, rfl⟩, rfl, rfl, by simp [State.frame, hv]⟩
    · exact ⟨_, _, h s ⟨rfl, rfl⟩, h { s with fr := g } ⟨rfl, rfl⟩, rfl, rfl, rfl⟩

/-! ## The statements -/

/-- Settles O36: R23 holds of each effect a command can have. -/
theorem fvIsWrittenExactlyAsItsRuleSays : Obligations.FvIsWrittenExactlyAsItsRuleSays := by
  refine ⟨fun i s t h => ?_, fun i s => exec_noFrame, fun s t rest hi h => ?_, fun s => State.Inv.fr_some⟩
  · obtain ⟨r, hr, hload, hconsume, hkeep⟩ := (exec_next h).fvRule
    refine ⟨r, hr, fun hok hi => hload hok (loadsFrame_iff.mpr hi),
      fun hok hi => hconsume hok (consumesFrame_iff.mpr hi), fun hi => hkeep (hi.imp_right ?_)⟩
    rintro ⟨hb, hp, hs, ho⟩
    simp [Instr.loadsFrame, Instr.consumesFrame, hb, hp, hs, ho]
  · rw [step_reset hi, Host.Outcome.next.injEq] at h
    simp [← h]

/-- Settles O43: the invariant gives the empty register, and while `FV = 0` a command either raises NO_FRAME or depends
on its operands only. -/
theorem frIsUnreadableWhileFvIsZero : Obligations.FrIsUnreadableWhileFvIsZero := by
  refine ⟨fun p => ⟨rfl, rfl⟩, fun s t hs h => (step_inv hs h).fr_none, fun i s t res hi h hr => ?_,
    fun i s g hv => ?_⟩
  · rw [(exec_next h).consumed (consumesFrame_iff.mpr hi) hr]
    exact ⟨rfl, rfl⟩
  · obtain ⟨t, t', h, h', hresp, hfv, hframe⟩ := exec_ignores_fr i s g hv
    refine ⟨t, t', h, h', hresp, hfv, hframe, fun hb hp => (exec_next h).fv_false ?_ hv⟩
    simp [Instr.loadsFrame, hb, hp]

end Sys2Proof.Machine
end

section
/-! PROOFS. The command word (30_encoding.md R61, R62, R65): which words decode, by the opcode map and by the fields. -/

namespace Sys2Proof.Machine
open Sys2Proof

variable {s : State} {w : Word32} {i : Instr}

/-! ## The decoder and the opcode map -/

/-- Decoding searches the opcode map. That no later row is hidden by an earlier one is checked row by row. -/
theorem decode_ok_iff_mem_opcodeMap : decode w = .ok i ↔ (w, i) ∈ opcodeMap := by
  constructor
  · intro h
    unfold decode at h
    split at h
    next row hfind =>
      have hword : row.1 = w := by simpa using List.find?_some hfind
      have hinstr : row.2 = i := by simpa using h
      rw [← hword, ← hinstr]
      exact List.mem_of_find?_eq_some hfind
    next => cases h
  · have hrows : ∀ row ∈ opcodeMap, decode row.1 = .ok row.2 := by decide
    exact hrows (w, i)

/-- A word is illegal when no command decodes from it. -/
theorem decode_error_iff_not_ok : (∃ why, decode w = .error why) ↔ ¬ ∃ i, decode w = .ok i := by
  cases decode w with
  | error why => simp
  | ok i => simp

/-- Settles O2: the rows of the statement are those the decoder searches. -/
theorem decodeAcceptsExactlyTheOpcodeMap : Obligations.DecodeAcceptsExactlyTheOpcodeMap :=
  fun _ _ => decode_ok_iff_mem_opcodeMap

/-! ## The fields of a legal word -/

/-- None of the four cases of R65 applies to `w`. -/
abbrev FieldsLegal (w : Word32) : Prop :=
  wordOp w ∈ opMap ∧ wordRsv w = 0#20 ∧ (wordOp w ≠ opFrRead → wordSel w = 0#4) ∧
    (wordOp w = opFrRead → (wordSel w).toNat < 8)

/-- A word is put together from its three fields (R61). -/
theorem word_eq_append_fields (w : Word32) : w = wordRsv w ++ wordSel w ++ wordOp w := by
  have hhigh : wordRsv w ++ wordSel w = w.extractLsb' 8 24 :=
    BitVec.extractLsb'_append_extractLsb'_eq_extractLsb' (by decide : 12 = 8 + 4)
  have hword : w.extractLsb' 8 24 ++ wordOp w = w.extractLsb' 0 32 :=
    BitVec.extractLsb'_append_extractLsb'_eq_extractLsb' (by decide : 8 = 0 + 8)
  rw [hhigh, hword, BitVec.extractLsb'_eq_self]

/-- With `RSV` 0 it is the word of its `OP` and `SEL`. -/
theorem eq_wordOf_fields (hrsv : wordRsv w = 0#20) : w = wordOf (wordOp w) (wordSel w) := by
  rw [wordOf, ← hrsv]
  exact word_eq_append_fields w

/-- An `OP` of the map other than FR_READ's is a command with `SEL` 0. -/
theorem wordOf_op_mem_opcodeMap :
    ∀ op ∈ opMap, op ≠ opFrRead → wordOf op 0#4 ∈ opcodeMap.map Prod.fst := by decide

/-- FR_READ's `OP` is a command with each `SEL` below 8. -/
theorem wordOf_frRead_mem_opcodeMap :
    ∀ sel : BitVec 4, sel.toNat < 8 → wordOf opFrRead sel ∈ opcodeMap.map Prod.fst := by decide

/-- The words that decode are those whose fields are legal. -/
theorem decode_ok_iff_fieldsLegal : (∃ i, decode w = .ok i) ↔ FieldsLegal w := by
  constructor
  · rintro ⟨i, h⟩
    have hrows : ∀ row ∈ opcodeMap, FieldsLegal row.1 := by decide
    exact hrows (w, i) (decode_ok_iff_mem_opcodeMap.mp h)
  · rintro ⟨hop, hrsv, hsel, hrange⟩
    have hmem : w ∈ opcodeMap.map Prod.fst := by
      rw [eq_wordOf_fields hrsv]
      by_cases hread : wordOp w = opFrRead
      · rw [hread]
        exact wordOf_frRead_mem_opcodeMap _ (hrange hread)
      · rw [hsel hread]
        exact wordOf_op_mem_opcodeMap _ hop hread
    obtain ⟨⟨_, i⟩, hrow, rfl⟩ := List.mem_map.mp hmem
    exact ⟨i, decode_ok_iff_mem_opcodeMap.mpr hrow⟩

/-- The fields are illegal in exactly the four cases of R65. -/
theorem not_fieldsLegal_iff : ¬ FieldsLegal w ↔
    (wordOp w ∉ opMap ∨ wordRsv w ≠ 0#20 ∨ (wordSel w ≠ 0#4 ∧ wordOp w ≠ opFrRead) ∨
      (8 ≤ (wordSel w).toNat ∧ wordOp w = opFrRead)) := by
  simp only [FieldsLegal, not_and_or, Classical.not_imp, not_lt]
  tauto

/-! ## The step -/

/-- A step that takes a request with an illegal word only answers ILLEGAL_COMMAND (R65). -/
theorem step_illegal {r : Request} {rest : List PortInput} {why : IllegalWord}
    (hi : s.inputs = .request r :: rest) (hd : decode r.cmd = .error why) :
    step s = .next ((s.accept r rest).respond (.err .illegalCommand)) := by
  simp [step, hi, hd, raise_eq]

/-- Settles O4: a word is illegal when its fields are not legal, and the step then only answers. -/
theorem illegalWordsRaiseIllegalCommand : Obligations.IllegalWordsRaiseIllegalCommand :=
  ⟨fun _ => (decode_error_iff_not_ok.trans (not_congr decode_ok_iff_fieldsLegal)).trans not_fieldsLegal_iff,
    fun _ _ _ _ hi hd => step_illegal hi hd⟩

end Sys2Proof.Machine
end

section
/-! PROOFS. The FWI unit (40_fixed_width_int.md R100 to R103): big-endian numbers as positional sums, and what FWI_ENC
and FWI_DEC answer in each case. -/

namespace Sys2Proof.Machine
open Sys2Proof

variable {s : State}

/-! ## Big-endian numbers -/

/-- One more byte at the end counts 1, and moves the bytes before it up one place. -/
theorem bigEndian_append_singleton (p : Bytes) (b : Byte) :
    bigEndian (p ++ [b]) = bigEndian p * 256 + b.toNat := by
  simp [bigEndian]

/-- The byte at offset `k` of `n` bytes counts `256 ^ (n - 1 - k)` (R43). -/
theorem bigEndian_eq_sum (p : Bytes) :
    bigEndian p = ∑ k ∈ Finset.range p.length, (p.getD k 0#8).toNat * 256 ^ (p.length - 1 - k) := by
  induction p using List.reverseRecOn with
  | nil => rfl
  | append_singleton p b ih =>
    have hlast : ((p ++ [b]).getD p.length 0#8).toNat * 256 ^ (p.length - p.length) = b.toNat := by simp
    have hshift : ∀ k ∈ Finset.range p.length,
        ((p ++ [b]).getD k 0#8).toNat * 256 ^ (p.length - k) =
          (p.getD k 0#8).toNat * 256 ^ (p.length - 1 - k) * 256 := by
      intro k hk
      have hk : k < p.length := Finset.mem_range.mp hk
      rw [List.getD_append _ _ _ _ hk, show p.length - k = p.length - 1 - k + 1 by omega, pow_succ, mul_assoc]
    rw [List.length_append, List.length_singleton, Nat.add_sub_cancel, Finset.sum_range_succ, hlast,
      Finset.sum_congr rfl hshift, ← Finset.sum_mul, ← ih,
      bigEndian_append_singleton]

/-- The value FWI_DEC returns is the positional sum over the input padded to 8 bytes (R101). -/
theorem unbe_eq_sum {p : Bytes} (h : p.length ≤ 8) :
    unbe p = ∑ k ∈ Finset.range 8, ((List.replicate (8 - p.length) 0#8 ++ p).getD k 0#8).toNat * 256 ^ (7 - k) := by
  have hlength : (List.replicate (8 - p.length) 0#8 ++ p).length = 8 := by simp [h]
  have hsum := bigEndian_eq_sum (List.replicate (8 - p.length) 0#8 ++ p)
  rw [hlength] at hsum
  exact hsum

/-! ## FWI_ENC -/

theorem exec_fwiEnc_eq (s : State) :
    exec .fwiEnc s = orRaise (be4 s.request.v.toNat) s fun r => returnBytes r s s := rfl

/-- The 4 bytes of the result fit every legal block (R10). -/
theorem exec_fwiEnc_fits (hs : s.params.Legal) (h : s.request.v.toNat ≤ 0xFFFFFFFF) :
    exec .fwiEnc s = .next (s.respond (.ok (.bytes (wordBytes (s.request.v.setWidth 32))))) := by
  have hfits : (wordBytes (s.request.v.setWidth 32)).length ≤ s.params.maxLen := by
    rw [wordBytes_length]
    obtain ⟨hmin, -⟩ := hs
    omega
  rw [exec_fwiEnc_eq, be4_fits h, orRaise_ok, BitVec.ofNat_toNat, returnBytes_fits hfits]

theorem exec_fwiEnc_tooBig (h : 0xFFFFFFFF < s.request.v.toNat) :
    exec .fwiEnc s = .next (s.respond (.err .encodingError)) := by
  rw [exec_fwiEnc_eq, be4_tooBig h, orRaise_error, raise_eq]

/-- The low 32 bits of a 64-bit value have its low 4 bytes. -/
theorem wordBytes_setWidth (v : Word64) :
    wordBytes (v.setWidth 32) =
      [v.extractLsb' 24 8, v.extractLsb' 16 8, v.extractLsb' 8 8, v.extractLsb' 0 8] := by
  have hbyte : ∀ n, n + 8 ≤ 32 → (v.setWidth 32).extractLsb' n 8 = v.extractLsb' n 8 :=
    fun n hn => BitVec.extractLsb'_setWidth_of_le hn
  simp [wordBytes, hbyte]

/-- Settles O8: the encoder's two cases, at most and above 0xFFFFFFFF. -/
theorem fwiEncEncodesOrFails : Obligations.FwiEncEncodesOrFails := by
  refine ⟨by decide, fun s hs => ⟨fun h => ?_, fun h => exec_fwiEnc_tooBig h⟩⟩
  rw [exec_fwiEnc_fits hs h, wordBytes_setWidth]
  rfl

/-! ## FWI_DEC -/

theorem exec_fwiDec_capacity (h : s.params.maxLen < s.request.a.length) :
    exec .fwiDec s = .next (s.respond (.err .capacityError)) :=
  useBuffer_tooLong h

/-- With `A` within `MAX_LEN`, FWI_DEC only looks at its length and its value. -/
theorem exec_fwiDec_eq (h : s.request.a.length ≤ s.params.maxLen) :
    exec .fwiDec s = if Config.decodeMax < s.request.a.length then raise .operandError s
      else returnValue (BitVec.ofNat 64 (unbe s.request.a)) s :=
  useBuffer_fits h

theorem exec_fwiDec_tooLong (h : 8 < s.request.a.length) (hcap : s.request.a.length ≤ s.params.maxLen) :
    exec .fwiDec s = .next (s.respond (.err .operandError)) := by
  rw [exec_fwiDec_eq hcap, if_pos h, raise_eq]

/-- An operand of 8 bytes fits every legal block (R10). -/
theorem exec_fwiDec_fits (hs : s.params.Legal) (h : s.request.a.length ≤ 8) :
    exec .fwiDec s = .next (s.respond (.ok (.value (BitVec.ofNat 64 (unbe s.request.a))))) := by
  have hcap : s.request.a.length ≤ s.params.maxLen := by
    obtain ⟨hmin, -⟩ := hs
    omega
  rw [exec_fwiDec_eq hcap, if_neg (Nat.not_lt.mpr h), returnValue_eq]

/-- Settles O9: the answer is `unbe`, which is the padded positional sum. -/
theorem fwiDecDecodesOrFails : Obligations.FwiDecDecodesOrFails := by
  refine ⟨by decide, fun s hs => ⟨fun h => ?_, exec_fwiDec_tooLong, exec_fwiDec_capacity⟩⟩
  rw [← unbe_eq_sum h]
  exact ⟨unbe_lt _ h, exec_fwiDec_fits hs h⟩

end Sys2Proof.Machine
end

section
/-! PROOFS. The CRC unit (41_digest.md R110 to R113): the inner loop is linear over xor, so the byte-at-a-time table form
computes the bitwise CRC; what the digest is, and what CRC answers in each case. -/

namespace Sys2Proof.Machine
open Sys2Proof

variable {s : State}

/-! ## The inner loop -/

theorem crcShift_of_top_false {c : Word32} (h : c.getLsbD 31 = false) : crcShift c = c <<< 1 := by
  rw [crcShift, h, if_neg Bool.false_ne_true]

theorem crcShift_of_top_true {c : Word32} (h : c.getLsbD 31 = true) : crcShift c = c <<< 1 ^^^ Config.crcPoly := by
  rw [crcShift, if_pos h]

/-- A turn is linear over xor: bit 31 of a xor is the xor of the bits 31, and the polynomial cancels when both are 1. -/
theorem crcShift_xor (a b : Word32) : crcShift (a ^^^ b) = crcShift a ^^^ crcShift b := by
  have hshift : (a ^^^ b) <<< 1 = a <<< 1 ^^^ b <<< 1 := BitVec.shiftLeft_xor_distrib a b 1
  have htop : (a ^^^ b).getLsbD 31 = (a.getLsbD 31 ^^ b.getLsbD 31) := BitVec.getLsbD_xor
  cases ha : a.getLsbD 31 <;> cases hb : b.getLsbD 31 <;> rw [ha, hb] at htop
  case false.false =>
    rw [crcShift_of_top_false htop, crcShift_of_top_false ha, crcShift_of_top_false hb, hshift]
  case false.true =>
    rw [crcShift_of_top_true htop, crcShift_of_top_false ha, crcShift_of_top_true hb, hshift, BitVec.xor_assoc]
  case true.false =>
    rw [crcShift_of_top_true htop, crcShift_of_top_true ha, crcShift_of_top_false hb, hshift]
    ac_rfl
  case true.true =>
    have hcancel (x y p : Word32) : (x ^^^ p) ^^^ (y ^^^ p) = x ^^^ y := by
      rw [BitVec.xor_comm y p, BitVec.xor_assoc, ← BitVec.xor_assoc p, BitVec.xor_self, BitVec.zero_xor]
    rw [crcShift_of_top_false htop, crcShift_of_top_true ha, crcShift_of_top_true hb, hshift, hcancel]

theorem crcShifts_xor (n : Nat) (a b : Word32) : crcShifts n (a ^^^ b) = crcShifts n a ^^^ crcShifts n b := by
  induction n generalizing a b with
  | zero => rfl
  | succ n ih => rw [crcShifts, crcShift_xor, ih, crcShifts, crcShifts]

/-- `n` turns are the `n`-th iterate of one turn. -/
theorem crcShifts_eq_iterate (n : Nat) : crcShifts n = crcShift^[n] := by
  induction n with
  | zero => rfl
  | succ n ih =>
    funext c
    rw [crcShifts, ih, Function.iterate_succ_apply]

/-- While bit 31 is 0 a turn is a plain shift, so `n` turns of a word whose top `n` bits are 0 shift it by `n`. -/
theorem crcShifts_of_top_zero (n : Nat) (c : Word32) (h : ∀ i, 32 ≤ i + n → c.getLsbD i = false) :
    crcShifts n c = c <<< n := by
  induction n generalizing c with
  | zero => simp [crcShifts]
  | succ n ih =>
    have htop : ∀ i, 32 ≤ i + n → (c <<< 1).getLsbD i = false := by
      intro i hi
      simp [BitVec.getLsbD_shiftLeft, h (i - 1) (by omega)]
    rw [crcShifts, crcShift_of_top_false (h 31 (by omega)), ih _ htop, ← BitVec.shiftLeft_add, Nat.add_comm]

/-! ## The table form -/

/-- `TABLE[k]` (R111). -/
def crcTable (k : Byte) : Word32 := crcShifts 8 (k.setWidth 32 <<< 24)

/-- A word is its low 24 bits and its top byte. -/
theorem eq_low_xor_top (c : Word32) :
    c = (c.setWidth 24).setWidth 32 ^^^ ((c.extractLsb' 24 8).setWidth 32 <<< 24) := by
  ext i hi
  rcases Nat.lt_or_ge i 24 with hlow | htop
  · simp [hlow, BitVec.getLsbD_eq_getElem hi]
  · have hbyte : i - 24 < 8 := by omega
    simp [Nat.not_lt.mpr htop, hbyte, Nat.add_sub_cancel' htop, BitVec.getLsbD_eq_getElem hi]

/-- Shifted up by 8, a word keeps its low 24 bits only. -/
theorem low_shiftLeft (c : Word32) : (c.setWidth 24).setWidth 32 <<< 8 = c <<< 8 := by
  ext i hi
  have hlow : i - 8 < 24 := by omega
  have hin : i - 8 < 32 := by omega
  simp [hlow, BitVec.getLsbD_eq_getElem hin]

/-- The step of the table form is the feeding of one byte: the low 24 bits only move up, and the top byte goes through the
table with the byte fed. -/
theorem crcFeed_eq_table (c : Word32) (b : Byte) :
    crcFeed c b = (c <<< 8) ^^^ crcTable (c.extractLsb' 24 8 ^^^ b) := by
  have hsplit : c ^^^ (b.setWidth 32 <<< 24) =
      (c.setWidth 24).setWidth 32 ^^^ ((c.extractLsb' 24 8 ^^^ b).setWidth 32 <<< 24) := by
    rw [BitVec.setWidth_xor, BitVec.shiftLeft_xor_distrib, ← BitVec.xor_assoc, ← eq_low_xor_top]
  have hlow : crcShifts 8 ((c.setWidth 24).setWidth 32) = c <<< 8 := by
    have htop : ∀ i, 32 ≤ i + 8 → ((c.setWidth 24).setWidth 32).getLsbD i = false := by
      intro i hi
      have hout : ¬ i < 24 := by omega
      simp [hout]
    rw [crcShifts_of_top_zero 8 _ htop, low_shiftLeft]
  rw [crcFeed, hsplit, crcShifts_xor, hlow, crcTable]

/-- Settles O11: the bitwise form is the model's fold with the loop written as an iterate, and the table form feeds the
same bytes. -/
theorem crcBitwiseAndTableFormsAgree : Obligations.CrcBitwiseAndTableFormsAgree := by
  unfold Obligations.CrcBitwiseAndTableFormsAgree
  intro turn table
  have hturns : turn^[8] = crcShifts 8 := (crcShifts_eq_iterate 8).symm
  have htable : table = crcTable := by simp only [table, hturns]; rfl
  rw [htable, hturns]
  refine ⟨crc32Bzip2_eq, fun p => ?_, by decide, by decide, by decide, by decide, by decide⟩
  rw [crc32Bzip2_eq, funext₂ crcFeed_eq_table]
  rfl

/-! ## The digest -/

/-- Settles O12: a word is within `be4`'s range. -/
theorem digestNeverFails : Obligations.DigestNeverFails := by
  intro p
  have hfits : (crc32Bzip2 p).toNat ≤ 0xFFFFFFFF := Nat.le_of_lt_succ (crc32Bzip2 p).isLt
  refine ⟨?_, digest_length p, rfl⟩
  rw [be4_fits hfits, BitVec.ofNat_toNat, BitVec.setWidth_eq, digest]

/-! ## CRC -/

theorem exec_crc_capacity (h : s.params.maxLen < s.request.a.length) :
    exec .crc s = .next (s.respond (.err .capacityError)) :=
  useBuffer_tooLong h

/-- The 4 bytes of the digest fit every legal block (R10). -/
theorem exec_crc_fits (hs : s.params.Legal) (h : s.request.a.length ≤ s.params.maxLen) :
    exec .crc s = .next (s.respond (.ok (.bytes (digest s.request.a)))) := by
  have hfits : (digest s.request.a).length ≤ s.params.maxLen := by
    rw [digest_length]
    obtain ⟨hmin, -⟩ := hs
    omega
  calc exec .crc s = returnBytes (digest s.request.a) s s := useBuffer_fits h
    _ = .next (s.respond (.ok (.bytes (digest s.request.a)))) := returnBytes_fits hfits

/-- Settles O13: `A` within and above `MAX_LEN`, and the digests of the rule's examples by evaluation. -/
theorem crcReturnsTheDigest : Obligations.CrcReturnsTheDigest :=
  ⟨by decide, fun _ hs => ⟨exec_crc_fits hs, exec_crc_capacity⟩, by decide, by decide, by decide, by decide⟩

end Sys2Proof.Machine
end

section
/-! PROOFS. The REV unit (42_segment_reversal.md R120, R121): where a byte goes, and what REV answers in each case. -/

namespace Sys2Proof.Machine
open Sys2Proof

variable {s : State}

/-- The positional equation of R120. -/
theorem rev_getElem? {p : Bytes} {k : Nat} (h : k < p.length) : (rev p)[k]? = p[p.length - 1 - k]? :=
  List.getElem?_reverse h

theorem exec_rev_capacity (h : s.params.maxLen < s.request.a.length) :
    exec .rev s = .next (s.respond (.err .capacityError)) :=
  useBuffer_tooLong h

/-- The result is as long as `A`, so it fits whenever `A` does. -/
theorem exec_rev_fits (h : s.request.a.length ≤ s.params.maxLen) :
    exec .rev s = .next (s.respond (.ok (.bytes (rev s.request.a)))) := by
  have hfits : (rev s.request.a).length ≤ s.params.maxLen := by rwa [rev_length]
  calc exec .rev s = returnBytes (rev s.request.a) s s := useBuffer_fits h
    _ = .next (s.respond (.ok (.bytes (rev s.request.a)))) := returnBytes_fits hfits

/-- Settles O17: within `MAX_LEN` the answer is `rev` of `A`, with its length and its positional equation. -/
theorem revReversesTheBytes : Obligations.RevReversesTheBytes := by
  refine ⟨by decide, fun s _ => ⟨fun h => ?_, exec_rev_capacity⟩⟩
  exact ⟨rev s.request.a, exec_rev_fits h, rev_length _, fun _ hk => rev_getElem? hk⟩

end Sys2Proof.Machine
end

section
/-! PROOFS. The pure functions of the frame codec (43_frame_codec.md section 1): exactly which buffers `parse` accepts,
how long the results are, and what replacing the digests of a frame buffer leaves as it was (R144). -/

namespace Sys2Proof.Machine
open Sys2Proof

variable {c : Params} {p d o t : Bytes} {f : Frame} {off n k : Nat}

/-! ## What `parse` accepts -/

/-- A read of one byte gives that byte. -/
theorem memRead_one_eq_iff {b : Byte} : memRead p k 1 = [b] ↔ p[k]? = some b := by
  rw [memRead, List.take_one, List.head?_drop]
  cases p[k]? <;> simp

/-- The strict check passes when both separators and both markers are the constants (R135). -/
theorem framingDrift_eq_false_iff : framingDrift p = false ↔
    p[4]? = some Config.sep1 ∧ p[9]? = some Config.sep2 ∧
      memRead p (10 + declaredToken p) 4 = Config.boundaryMarker ∧
      memRead p (58 + declaredToken p) 4 = Config.boundaryMarker := by
  simp only [framingDrift, Bool.or_eq_false_iff, bne_eq_false_iff_eq, memRead_one_eq_iff, and_assoc]

/-- The acceptance condition by the names of the model's own checks. -/
theorem parseAccepts_iff : ParseAccepts c p ↔
    62 ≤ p.length ∧ 62 + declaredToken p + declaredTail p ≤ p.length ∧
      (c.trailingPolicy = .reject → p.length = 62 + declaredToken p + declaredTail p) ∧
      (c.strictFraming = true → framingDrift p = false) := by
  rw [framingDrift_eq_false_iff]
  rfl

/-- A buffer that passes every check parses to the fields read at their offsets. -/
theorem parse_accepted (h : ParseAccepts c p) : parse c p = .ok (frameAt p) := by
  obtain ⟨hmin, hlen, htrailing, hstrict⟩ := parseAccepts_iff.mp h
  have htrailing' : ¬ (62 + declaredToken p + declaredTail p < p.length ∧ c.trailingPolicy = .reject) :=
    fun ⟨hlong, hreject⟩ => absurd (htrailing hreject) (Nat.ne_of_gt hlong)
  have hstrict' : ¬ (c.strictFraming && framingDrift p) = true := by
    rw [Bool.and_eq_true]
    exact fun ⟨hs, hdrift⟩ => by simp [hstrict hs] at hdrift
  rw [parse, if_neg (Nat.not_lt.mpr hmin), if_neg (by omega), if_neg (Nat.not_lt.mpr hlen), if_neg htrailing',
    if_neg hstrict']

/-- A buffer that parses has passed every check. -/
theorem parseAccepts_of_parse_ok (h : parse c p = .ok f) : ParseAccepts c p := by
  unfold parse at h
  split at h
  · cases h
  next hmin =>
  split at h
  · cases h
  split at h
  · cases h
  next hlen =>
  split at h
  · cases h
  next htrailing =>
  split at h
  · cases h
  next hstrict =>
  refine parseAccepts_iff.mpr ⟨Nat.not_lt.mp hmin, Nat.not_lt.mp hlen, fun hreject => ?_, fun hs => ?_⟩
  · have : ¬ 62 + declaredToken p + declaredTail p < p.length := fun hlong => htrailing ⟨hlong, hreject⟩
    omega
  · simpa [hs] using hstrict

/-- A buffer that fails a check gives FORMAT_ERROR, whichever check it is. -/
theorem parse_rejected (h : ¬ ParseAccepts c p) : parse c p = .error .formatError := by
  cases hp : parse c p with
  | error e => rw [parse_error hp]
  | ok f => exact absurd (parseAccepts_of_parse_ok hp) h

/-! ## Lengths -/

/-- The original of a frame is its head and its tail (R139). -/
theorem original_length (hf : f.WellFormed) : (original f).length = 32 + f.tailLength := by
  obtain ⟨-, hhead, htail, -⟩ := hf
  rw [original, List.length_append, rev_length, rev_length, hhead, htail]

/-- What `parse` accepts is longer than the original in it. -/
theorem original_frameAt_length_le (h : ParseAccepts c p) : (original (frameAt p)).length ≤ p.length := by
  obtain ⟨-, hlen, -⟩ := parseAccepts_iff.mp h
  rw [original_length (frameAt_wellFormed p hlen)]
  change 32 + declaredTail p ≤ p.length
  omega

theorem frameOf_tailLength (o t : Bytes) : (frameOf o t).tailLength = o.length - 32 := List.length_drop

/-- A built frame serializes when both lengths fit 4 bytes, to 30 bytes more than the token and the original (C2). -/
theorem serialize_frameOf (ho : 32 ≤ o.length) (ht : t.length ≤ 0xFFFFFFFF) (hn : o.length - 32 ≤ 0xFFFFFFFF) :
    ∃ w, serialize (frameOf o t) = .ok w ∧ w.length = 30 + t.length + o.length := by
  rw [← frameOf_tailLength o t] at hn
  refine ⟨_, serialize_fits ht hn, ?_⟩
  rw [layout_length _ _ _ (frameOf_wellFormed o t ho) (wordBytes_length _) (wordBytes_length _), frameOf_tailLength]
  change 62 + t.length + (o.length - 32) = 30 + t.length + o.length
  omega

theorem serialize_frameOf_tooBig (h : 0xFFFFFFFF < t.length ∨ 0xFFFFFFFF < o.length - 32) :
    serialize (frameOf o t) = .error .encodingError := by
  rw [← frameOf_tailLength o t] at h
  exact serialize_tooBig h

/-! ## Reads beside and inside replaced bytes -/

/-- `p` with the bytes from offset `k` on replaced by `d`. -/
def overwrite (p : Bytes) (k : Nat) (d : Bytes) : Bytes := p.take k ++ d ++ p.drop (k + d.length)

theorem overwrite_length (h : k + d.length ≤ p.length) : (overwrite p k d).length = p.length := by
  simp [overwrite]
  omega

theorem memRead_overwrite_before (hk : k ≤ p.length) (h : off + n ≤ k) :
    memRead (overwrite p k d) off n = memRead p off n := by
  have hoff : off ≤ (p.take k).length := by rw [List.length_take]; omega
  have hn : n ≤ ((p.take k).drop off).length := by rw [List.length_drop, List.length_take]; omega
  rw [memRead, overwrite, List.append_assoc, List.drop_append_of_le_length hoff, List.take_append_of_le_length hn,
    List.drop_take, List.take_take, Nat.min_eq_left (by omega), memRead]

theorem memRead_overwrite_after (hk : k ≤ p.length) (h : k + d.length ≤ off) :
    memRead (overwrite p k d) off n = memRead p off n := by
  have hlength : (p.take k ++ d).length = k + d.length := by simp [hk]
  rw [memRead, overwrite, List.drop_append, List.drop_eq_nil_of_le (by omega), List.nil_append, hlength,
    List.drop_drop, Nat.add_sub_cancel' h, memRead]

theorem memRead_overwrite_within (hk : k ≤ p.length) (h : off + n ≤ d.length) :
    memRead (overwrite p k d) (k + off) n = memRead d off n := by
  have hlength : (p.take k).length = k := List.length_take_of_le hk
  have hn : n ≤ (d.drop off).length := by rw [List.length_drop]; omega
  rw [memRead, overwrite, List.append_assoc, List.drop_append, List.drop_eq_nil_of_le (by omega), List.nil_append,
    hlength, Nat.add_sub_cancel_left, List.drop_append_of_le_length (by omega), List.take_append_of_le_length hn,
    memRead]

end Sys2Proof.Machine
end

section
/-! PROOFS. No digest is checked (43_frame_codec.md R144): replacing the 12 digest bytes of a frame buffer changes no
check of `parse`, and only the three digests of the frame. -/

namespace Sys2Proof.Machine
open Sys2Proof

/-- A frame buffer with its three digests replaced by the 12 bytes `d`, at their offset (R70). -/
def overwriteDigests (p d : Bytes) : Bytes := overwrite p (14 + declaredToken p) d

/-- A frame with its three digests replaced by the 12 bytes `d`. -/
abbrev Frame.withDigests (f : Frame) (d : Bytes) : Frame :=
  { f with
    wholeDigest := d.take 4
    headDigest := (d.drop 4).take 4
    tailDigest := d.drop 8 }

theorem original_withDigests (f : Frame) (d : Bytes) : original (f.withDigests d) = original f := rfl

section
variable {c : Params} {p d : Bytes} {off n : Nat} (hlen : 62 + declaredToken p ≤ p.length) (hd : d.length = 12)

include hlen

/-- A read that ends before the digests. -/
theorem memRead_overwriteDigests_before (h : off + n ≤ 14 + declaredToken p) :
    memRead (overwriteDigests p d) off n = memRead p off n :=
  memRead_overwrite_before (by omega) h

theorem declaredToken_overwriteDigests : declaredToken (overwriteDigests p d) = declaredToken p := by
  rw [declaredToken, memRead_overwriteDigests_before hlen (by omega), declaredToken]

theorem declaredTail_overwriteDigests : declaredTail (overwriteDigests p d) = declaredTail p := by
  rw [declaredTail, memRead_overwriteDigests_before hlen (by omega), declaredTail]

include hd

/-- A read that begins after the digests. -/
theorem memRead_overwriteDigests_after (h : 26 + declaredToken p ≤ off) :
    memRead (overwriteDigests p d) off n = memRead p off n :=
  memRead_overwrite_after (by omega) (by omega)

/-- A read of digest bytes. -/
theorem memRead_overwriteDigests_within (h : off + n ≤ 12) :
    memRead (overwriteDigests p d) (14 + declaredToken p + off) n = memRead d off n :=
  memRead_overwrite_within (by omega) (by omega)

theorem overwriteDigests_length : (overwriteDigests p d).length = p.length :=
  overwrite_length (by omega)

theorem framingDrift_overwriteDigests : framingDrift (overwriteDigests p d) = framingDrift p := by
  rw [framingDrift, declaredToken_overwriteDigests hlen, memRead_overwriteDigests_before hlen (by omega),
    memRead_overwriteDigests_before hlen (by omega), memRead_overwriteDigests_before hlen (by omega),
    memRead_overwriteDigests_after hlen hd (by omega), framingDrift]

/-- None of the checks of R134 to R136 looks at a digest. -/
theorem parseAccepts_overwriteDigests (h : ParseAccepts c p) : ParseAccepts c (overwriteDigests p d) := by
  rw [parseAccepts_iff] at h ⊢
  rwa [overwriteDigests_length hlen hd, declaredToken_overwriteDigests hlen, declaredTail_overwriteDigests hlen,
    framingDrift_overwriteDigests hlen hd]

theorem frameAt_overwriteDigests : frameAt (overwriteDigests p d) = (frameAt p).withDigests d := by
  have hwhole : memRead (overwriteDigests p d) (14 + declaredToken p) 4 = d.take 4 :=
    memRead_overwriteDigests_within (off := 0) hlen hd (by decide)
  have hhead : memRead (overwriteDigests p d) (18 + declaredToken p) 4 = (d.drop 4).take 4 := by
    rw [show 18 + declaredToken p = 14 + declaredToken p + 4 by omega]
    exact memRead_overwriteDigests_within hlen hd (by decide)
  have htail : memRead (overwriteDigests p d) (22 + declaredToken p) 4 = d.drop 8 := by
    rw [show 22 + declaredToken p = 14 + declaredToken p + 8 by omega,
      memRead_overwriteDigests_within hlen hd (by decide), memRead, List.take_of_length_le (by simp [hd])]
  rw [frameAt, declaredToken_overwriteDigests hlen, declaredTail_overwriteDigests hlen, hwhole, hhead, htail,
    memRead_overwriteDigests_before hlen (by omega), memRead_overwriteDigests_after hlen hd (by omega),
    memRead_overwriteDigests_after hlen hd (by omega), frameAt]

end

/-- Settles O32: the replaced buffer passes the same checks, and `original` reads no digest. -/
theorem digestsAreNeverChecked : Obligations.DigestsAreNeverChecked := by
  intro c p d f hp hd
  have haccepts := parseAccepts_of_parse_ok hp
  obtain ⟨hlen, rfl⟩ := parse_ok hp
  have hlen : 62 + declaredToken p ≤ p.length := by omega
  have hbuffer : p.take (14 + declaredToken p) ++ d ++ p.drop (26 + declaredToken p) = overwriteDigests p d := by
    rw [overwriteDigests, overwrite, hd, show 14 + declaredToken p + 12 = 26 + declaredToken p by omega]
  refine ⟨?_, original_withDigests (frameAt p) d⟩
  change parse c (p.take (14 + declaredToken p) ++ d ++ p.drop (26 + declaredToken p)) = _
  rw [hbuffer, parse_accepted (parseAccepts_overwriteDigests hlen hd haccepts), frameAt_overwriteDigests hlen hd]

end Sys2Proof.Machine
end

section
/-! PROOFS. The capacity check of two operands (20_memory.md R41), and what BUILD and ENCODE_FILE answer in each
case (43_frame_codec.md R131, R142). -/

namespace Sys2Proof.Machine
open Sys2Proof

variable {s : State}

/-- Every command that uses `B` uses `A` too, and checks both lengths before anything else (R41, R63). -/
theorem exec_capacity_of_usesB {i : Instr} (hi : i.usesB = true)
    (h : s.params.maxLen < s.request.a.length ∨ s.params.maxLen < s.request.b.length) :
    exec i s = .next (s.respond (.err .capacityError)) := by
  cases i with
  | build | parse | encodeFile | decodeFile => exact useAB_tooLong h
  | fwiEnc | fwiDec | crc | rev | serialize | original | frReadToken | frReadTlen | frReadNlen | frReadWdig
  | frReadHdig | frReadTdig | frReadHseg | frReadTseg => cases hi

/-! ## BUILD -/

section
variable (ha : s.request.a.length ≤ s.params.maxLen) (hb : s.request.b.length ≤ s.params.maxLen)
include ha hb

theorem exec_build_eq :
    exec .build s = orRaise (build s.request.a s.request.b) s fun f => returnNone (s.loadFrame f) :=
  useAB_fits ha hb

theorem exec_build_fits (h : 32 ≤ s.request.a.length) :
    exec .build s = .next ((s.loadFrame (frameOf s.request.a s.request.b)).respond (.ok .none)) := by
  rw [exec_build_eq ha hb, build_fits h, orRaise_ok, returnNone_eq]

theorem exec_build_short (h : s.request.a.length < 32) : exec .build s = .next (s.respond (.err .formatError)) := by
  rw [exec_build_eq ha hb, build_short h, orRaise_error, raise_eq]

end

/-- Settles O18: the two cases of `build`, and the common capacity check. -/
theorem buildLoadsTheFrame : Obligations.BuildLoadsTheFrame := by
  refine ⟨by decide, fun s => ⟨fun ha hb h => ?_, exec_build_short, exec_capacity_of_usesB rfl⟩⟩
  rw [exec_build_fits ha hb h, frameOf, tailOf, List.length_drop]
  rfl

/-! ## ENCODE_FILE -/

section
variable (ha : s.request.a.length ≤ s.params.maxLen) (hb : s.request.b.length ≤ s.params.maxLen)
include ha hb

theorem exec_encodeFile_eq :
    exec .encodeFile s = orRaise (build s.request.a s.request.b) s fun f =>
      orRaise (serialize f) s fun r => returnBytes r s s :=
  useAB_fits ha hb

theorem exec_encodeFile_short (h : s.request.a.length < 32) :
    exec .encodeFile s = .next (s.respond (.err .formatError)) := by
  rw [exec_encodeFile_eq ha hb, build_short h, orRaise_error, raise_eq]

theorem exec_encodeFile_tooBig (h : 32 ≤ s.request.a.length)
    (hbig : 0xFFFFFFFF < s.request.b.length ∨ 0xFFFFFFFF < s.request.a.length - 32) :
    exec .encodeFile s = .next (s.respond (.err .encodingError)) := by
  rw [exec_encodeFile_eq ha hb, build_fits h, orRaise_ok, serialize_frameOf_tooBig hbig, orRaise_error, raise_eq]

/-- With a frame that serializes, only the length of the result can fail. -/
theorem exec_encodeFile_serialized {w : Bytes} (h : 32 ≤ s.request.a.length)
    (hw : serialize (frameOf s.request.a s.request.b) = .ok w) : exec .encodeFile s = returnBytes w s s := by
  rw [exec_encodeFile_eq ha hb, build_fits h, orRaise_ok, hw, orRaise_ok]

end

/-- Settles O26: the errors in their order, and the length of the built frame. -/
theorem encodeFileComposesBuildAndSerialize : Obligations.EncodeFileComposesBuildAndSerialize := by
  refine ⟨by decide, fun s => ⟨exec_capacity_of_usesB rfl, fun ha hb =>
    ⟨exec_encodeFile_short ha hb, exec_encodeFile_tooBig ha hb, fun h ht hn => ?_⟩⟩⟩
  obtain ⟨w, hw, hlength⟩ := serialize_frameOf h ht hn
  refine ⟨_, w, build_fits h, hw, hlength, fun hfits => ?_, fun hlong => ?_⟩
  · exact (exec_encodeFile_serialized ha hb h hw).trans (returnBytes_fits hfits)
  · exact (exec_encodeFile_serialized ha hb h hw).trans (returnBytes_tooLong hlong)

end Sys2Proof.Machine
end

section
/-! PROOFS. PARSE and DECODE_FILE (43_frame_codec.md R137, R138, R143): what they answer in each case. -/

namespace Sys2Proof.Machine
open Sys2Proof

variable {s : State}

/-! ## The cases -/

section
variable (ha : s.request.a.length ≤ s.params.maxLen) (hb : s.request.b.length ≤ s.params.maxLen)
include ha hb

theorem exec_parse_eq :
    exec .parse s = orRaise (parse s.params s.request.a) s fun f => returnNone (s.loadFrame f) :=
  useAB_fits ha hb

theorem exec_parse_accepted (h : ParseAccepts s.params s.request.a) :
    exec .parse s = .next ((s.loadFrame (frameAt s.request.a)).respond (.ok .none)) := by
  rw [exec_parse_eq ha hb, parse_accepted h, orRaise_ok, returnNone_eq]

theorem exec_parse_rejected (h : ¬ ParseAccepts s.params s.request.a) :
    exec .parse s = .next (s.respond (.err .formatError)) := by
  rw [exec_parse_eq ha hb, parse_rejected h, orRaise_error, raise_eq]

theorem exec_decodeFile_eq :
    exec .decodeFile s = orRaise (parse s.params s.request.a) s fun f => returnBytes (original f) s s :=
  useAB_fits ha hb

/-- The original is shorter than `A`, so it fits whenever `A` does. -/
theorem exec_decodeFile_accepted (h : ParseAccepts s.params s.request.a) :
    exec .decodeFile s = .next (s.respond (.ok (.bytes (original (frameAt s.request.a))))) := by
  rw [exec_decodeFile_eq ha hb, parse_accepted h, orRaise_ok,
    returnBytes_fits ((original_frameAt_length_le h).trans ha)]

theorem exec_decodeFile_rejected (h : ¬ ParseAccepts s.params s.request.a) :
    exec .decodeFile s = .next (s.respond (.err .formatError)) := by
  rw [exec_decodeFile_eq ha hb, parse_rejected h, orRaise_error, raise_eq]

end

/-- The same state with another expected token in `B`. -/
abbrev State.withB (s : State) (b : Bytes) : State := { s with request := { s.request with b := b } }

/-! ## The statements -/

/-- Settles O22: `parse` accepts exactly what `ParseAccepts` says, and reads the fields at their offsets. -/
theorem parseLoadsOrRejects : Obligations.ParseLoadsOrRejects :=
  ⟨by decide, fun _ ha hb => ⟨exec_parse_accepted ha hb, exec_parse_rejected ha hb⟩⟩

/-- Settles O27: the same acceptance, and an original that fits. -/
theorem decodeFileComposesParseAndOriginal : Obligations.DecodeFileComposesParseAndOriginal :=
  ⟨by decide, fun _ ha hb =>
    ⟨fun h => ⟨_, parse_accepted h, exec_decodeFile_accepted ha hb h⟩, exec_decodeFile_rejected ha hb⟩⟩

/-- Settles O33: with `B` within `MAX_LEN`, which case applies depends on `A` and the parameters only, and so does the
answer of each case. -/
theorem expectedTokenIsNeverCompared : Obligations.ExpectedTokenIsNeverCompared := by
  intro s b i hi hb hb'
  have hi : i = .parse ∨ i = .decodeFile := by simpa using hi
  have huses : i.usesB = true := by rcases hi with rfl | rfl <;> rfl
  rcases Nat.lt_or_ge s.params.maxLen s.request.a.length with ha | ha
  · exact ⟨_, exec_capacity_of_usesB huses (.inl ha), exec_capacity_of_usesB (s := s.withB b) huses (.inl ha)⟩
  by_cases h : ParseAccepts s.params s.request.a
  · rcases hi with rfl | rfl
    · exact ⟨_, exec_parse_accepted ha hb h, exec_parse_accepted (s := s.withB b) ha hb' h⟩
    · exact ⟨_, exec_decodeFile_accepted ha hb h, exec_decodeFile_accepted (s := s.withB b) ha hb' h⟩
  · rcases hi with rfl | rfl
    · exact ⟨_, exec_parse_rejected ha hb h, exec_parse_rejected (s := s.withB b) ha hb' h⟩
    · exact ⟨_, exec_decodeFile_rejected ha hb h, exec_decodeFile_rejected (s := s.withB b) ha hb' h⟩

end Sys2Proof.Machine
end

section
/-! PROOFS. FR_READ (43_frame_codec.md R141): the illegal values of `SEL`, and the reads of a byte field and of a length
field. -/

namespace Sys2Proof.Machine
open Sys2Proof

variable {s : State} {f : Frame}

/-- FR_READ's `OP` with `SEL` 8 to 15 is illegal (R65). -/
theorem decode_frRead_selOutOfRange {sel : BitVec 4} (h : 8 ≤ sel.toNat) :
    ∃ why, decode (wordOf opFrRead sel) = .error why := by
  have hfields : ∀ sel : BitVec 4,
      wordSel (wordOf opFrRead sel) = sel ∧ wordOp (wordOf opFrRead sel) = opFrRead := by decide
  obtain ⟨hsel, hop⟩ := hfields sel
  rw [decode_error_iff_not_ok, decode_ok_iff_fieldsLegal, not_fieldsLegal_iff, hsel, hop]
  exact .inr (.inr (.inr ⟨h, rfl⟩))

/-- The frame the invariant speaks of is the one in `FR`. -/
theorem State.Inv.wellFormed_fitsIn (hs : s.Inv) (hv : s.fv = true) (hf : s.fr = some f) :
    f.WellFormed ∧ f.FitsIn s.params.maxLen := by
  obtain ⟨-, hframe, -⟩ := hs
  obtain ⟨g, hg, hgood⟩ := hframe hv
  rw [Option.some.inj (hf.symm.trans hg)]
  exact hgood

section
variable (hv : s.fv = true) (hf : s.fr = some f)
include hv hf

theorem readBytes_fits {field : Frame → Bytes} (h : (field f).length ≤ s.params.maxLen) :
    readBytes field s = .next (s.respond (.ok (.bytes (field f)))) := by
  rw [readBytes, withFrame_some hv hf, returnBytes_fits h]

/-- A length within `MAX_LEN` fits `RV`. -/
theorem readLength_fits {field : Frame → Nat} (hs : s.params.Legal) (h : field f ≤ s.params.maxLen) :
    ∃ rv : Word64, rv.toNat = field f ∧ readLength field s = .next (s.respond (.ok (.value rv))) := by
  obtain ⟨-, hmax⟩ := hs
  refine ⟨BitVec.ofNat 64 (field f), Nat.mod_eq_of_lt (by omega), ?_⟩
  rw [readLength, withFrame_some hv hf, returnValue_eq]

end

/-- Settles O25: in a state the invariant allows every field is within `MAX_LEN`. -/
theorem frReadReturnsTheField : Obligations.FrReadReturnsTheField := by
  refine ⟨by decide, fun _ => decode_frRead_selOutOfRange, fun s hs => ⟨fun hv i hi => ?_, fun f hv hf => ?_⟩⟩
  · have hneeds : ∀ i ∈ [Instr.frReadToken, .frReadTlen, .frReadNlen, .frReadWdig, .frReadHdig, .frReadTdig,
        .frReadHseg, .frReadTseg], i.needsFrame = true := by decide
    exact exec_noFrame (hneeds i hi) hv
  · have hlegal : s.params.Legal := hs.1
    obtain ⟨⟨htoken, hhead, htail, hwhole, hhdig, htdig⟩, htlen, hnlen⟩ := hs.wellFormed_fitsIn hv hf
    have hmin : 62 ≤ s.params.maxLen := hlegal.1
    exact ⟨readBytes_fits hv hf (by omega), readLength_fits hv hf hlegal htlen,
      readLength_fits hv hf hlegal (by omega), readBytes_fits hv hf (by omega), readBytes_fits hv hf (by omega),
      readBytes_fits hv hf (by omega), readBytes_fits hv hf (by omega), readBytes_fits hv hf (by omega)⟩

end Sys2Proof.Machine
end

section
/-! PROOFS. Errors (60_exceptions.md R172): a command that raises one writes no state and returns no result. -/

namespace Sys2Proof.Machine
open Sys2Proof

variable {s t : State} {i : Instr} {e : ErrorKind}

/-- Of the effects a command can have, only raising the error answers with an error (R172). -/
theorem Effect.raised (h : Effect i s t) (hr : t.responses = s.responses ++ [.err e]) :
    t = s.respond (.err e) := by
  rcases h with ⟨e', rfl⟩ | ⟨-, -, res, rfl, -⟩ | ⟨-, f, -, rfl, -⟩ | ⟨-, -, r, rfl, -⟩
  · have he : e' = e := by simpa using hr
    rw [he]
  · simp at hr
  · simp at hr
  · simp at hr

/-- A step that answers an error took a request: an illegal word, or a command that raised the error. In both cases it
leaves `FR` and `FV` alone (R65, R172). -/
theorem step_raised_keeps_frame (h : step s = .next t) (hr : t.responses = s.responses ++ [.err e]) :
    t.fr = s.fr ∧ t.fv = s.fv := by
  rcases step_next h with ⟨-, rfl⟩ | ⟨rest, -, rfl⟩ | ⟨r, rest, -, ⟨i, -, h⟩ | ⟨why, -, rfl⟩⟩
  · simp at hr
  · simp at hr
  · rw [(exec_next h).raised hr]
    exact ⟨rfl, rfl⟩
  · exact ⟨rfl, rfl⟩

/-- No error kind has the code of success (R60, R170). -/
theorem ErrorKind.code_ne_zero (e : ErrorKind) : e.code ≠ 0#4 := by
  cases e <;> decide

/-- Settles O37: an error is answered only by `raise`, whose response carries a code and no result. -/
theorem errorsWriteNothing : Obligations.ErrorsWriteNothing :=
  ⟨fun _ _ _ _ h hr => (exec_next h).raised hr, fun _ _ _ h hr => step_raised_keeps_frame h hr,
    fun e => ⟨e.code_ne_zero, rfl, rfl⟩⟩

end Sys2Proof.Machine
end

section
/-! PROOFS. Reset (70_reset_and_hazards.md R190): what taking a reset writes, and the state after power-up. -/

namespace Sys2Proof.Machine
open Sys2Proof

/-- Every field a reset writes: it takes the input, empties `FR` and clears `FV` (R190). -/
theorem State.acceptReset_eq (s : State) (rest : List PortInput) :
    s.acceptReset rest = { s with inputs := rest, fr := none, fv := false } := rfl

/-- At power-up `FV = 0`, `FR` holds no value and the parameters are those instantiated (R31, R190). -/
theorem State.resetWith_frame_params (p : Params) :
    (State.resetWith p).fv = false ∧ (State.resetWith p).fr = none ∧ (State.resetWith p).params = p :=
  ⟨rfl, rfl, rfl⟩

/-- Settles O6: a step that takes a reset is `acceptReset`, and power-up is `resetWith`, for the defaults too. -/
theorem resetClearsTheFrameRegister : Obligations.ResetClearsTheFrameRegister := by
  obtain ⟨hfv, hfr, -⟩ := State.resetWith_frame_params Config.defaultParams
  refine ⟨fun s rest hreset => ?_, State.resetWith_frame_params, hfv, hfr⟩
  rw [step_reset hreset, State.acceptReset_eq]

end Sys2Proof.Machine
end

section
/-! PROOFS. Decoding and encoding agree (30_encoding.md R62), and what a step does with each input (20_memory.md
R50). -/

namespace Sys2Proof.Machine
open Sys2Proof

variable {s : State} {w : Word32} {i : Instr}

/-- The encoder's word of a command is its row of the opcode map. -/
theorem encode_mem_opcodeMap (i : Instr) : (encode i, i) ∈ opcodeMap := by
  cases i <;> decide

theorem decode_encode (i : Instr) : decode (encode i) = .ok i :=
  decode_ok_iff_mem_opcodeMap.mpr (encode_mem_opcodeMap i)

/-- A row of the opcode map is the encoding of its command, so no command has a second word. -/
theorem eq_encode_of_decode (h : decode w = .ok i) : w = encode i := by
  have hrows : ∀ row ∈ opcodeMap, row.1 = encode row.2 := by decide
  exact hrows (w, i) (decode_ok_iff_mem_opcodeMap.mp h)

/-- Settles O3: the opcode map has the encoding of every command, and no other word. -/
theorem decodeAndEncodeAgree : Obligations.DecodeAndEncodeAgree :=
  ⟨fun i _ => decode_encode i, fun _ _ => eq_encode_of_decode⟩

/-- Settles O1: the five words stand in the opcode map. -/
theorem sampleWordsDecode : Obligations.SampleWordsDecode := by
  unfold Obligations.SampleWordsDecode
  decide

theorem step_idle (h : s.inputs = []) : step s = .next s := by
  simp [step, h]

/-- A step that takes a request with a legal word runs its command on the request. -/
theorem step_request {r : Request} {rest : List PortInput} (hi : s.inputs = .request r :: rest)
    (hd : decode r.cmd = .ok i) : step s = exec i (s.accept r rest) := by
  simp [step, hi, hd]

/-- Settles O7: nothing is presented, so nothing changes. -/
theorem idleBlockWaits : Obligations.IdleBlockWaits := fun _ => step_idle

/-- Settles O5: the step takes the request, and the command runs in the state that has. -/
theorem stepRunsTheDecodedCommand : Obligations.StepRunsTheDecodedCommand :=
  fun _ _ _ _ hi hd _ => step_request hi hd

end Sys2Proof.Machine
end

section
/-! PROOFS. The FWI laws (40_fixed_width_int.md section 3): the bytes of a word and the number they spell invert each
other. -/

namespace Sys2Proof.Machine
open Sys2Proof

/-- The byte of a word at bit `n`, as a number. -/
theorem extractLsb'_toNat_eq_div (w : Word32) (n : Nat) : (w.extractLsb' n 8).toNat = w.toNat / 2 ^ n % 256 := by
  rw [BitVec.extractLsb'_toNat, Nat.shiftRight_eq_div_pow]

/-- The four bytes of a word spell the word (R43). -/
theorem bigEndian_wordBytes (w : Word32) : bigEndian (wordBytes w) = w.toNat := by
  have hw : w.toNat < 2 ^ 32 := w.isLt
  simp only [bigEndian, wordBytes, List.foldl_cons, List.foldl_nil, extractLsb'_toNat_eq_div]
  omega

/-- Four bytes are the bytes of the word they spell. -/
theorem wordBytes_bigEndian {p : Bytes} (h : p.length = 4) : wordBytes (BitVec.ofNat 32 (bigEndian p)) = p := by
  obtain ⟨b₃, b₂, b₁, b₀, rfl⟩ := List.length_eq_four.mp h
  have h₃ := b₃.isLt
  have h₂ := b₂.isLt
  have h₁ := b₁.isLt
  have h₀ := b₀.isLt
  have hbyte (n : Nat) (b : Byte) (hb : bigEndian [b₃, b₂, b₁, b₀] % 2 ^ 32 / 2 ^ n % 256 = b.toNat) :
      (BitVec.ofNat 32 (bigEndian [b₃, b₂, b₁, b₀])).extractLsb' n 8 = b :=
    BitVec.eq_of_toNat_eq (by rw [extractLsb'_toNat_eq_div, BitVec.toNat_ofNat, hb])
  have hsum : bigEndian [b₃, b₂, b₁, b₀] = ((b₃.toNat * 256 + b₂.toNat) * 256 + b₁.toNat) * 256 + b₀.toNat := by
    simp [bigEndian]
  rw [wordBytes, hbyte 24 b₃ (by omega), hbyte 16 b₂ (by omega), hbyte 8 b₁ (by omega), hbyte 0 b₀ (by omega)]

theorem unbe_wordBytes {v : Nat} (h : v ≤ 0xFFFFFFFF) : unbe (wordBytes (BitVec.ofNat 32 v)) = v := by
  rw [unbe_eq, bigEndian_wordBytes, BitVec.toNat_ofNat, Nat.mod_eq_of_lt (by omega)]

theorem wordBytes_unbe {p : Bytes} (h : p.length = 4) : wordBytes (BitVec.ofNat 32 (unbe p)) = p := by
  rw [unbe_eq, wordBytes_bigEndian h]

/-- Four bytes, and fewer, spell a number the encoder takes. -/
theorem unbe_le_encodeMax {p : Bytes} (h : p.length ≤ 4) : unbe p ≤ 0xFFFFFFFF := by
  have hlt : bigEndian p < 256 ^ p.length := bigEndian_lt p
  have hpow : 256 ^ p.length ≤ 256 ^ 4 := Nat.pow_le_pow_right (by decide) h
  rw [unbe_eq]
  omega

/-- Settles O10: the bytes of a word and the number they spell invert each other, and leading zeros count nothing. -/
theorem fwiLawsHold : Obligations.FwiLawsHold := by
  refine ⟨fun v hv => ⟨_, be4_fits hv, wordBytes_length _, unbe_wordBytes hv⟩, fun v => be4_tooBig, fun p hp => ?_,
    unbe_lt, fun k p _ => ?_⟩
  · rw [be4_fits (unbe_le_encodeMax hp.le), wordBytes_unbe hp]
  · rw [unbe_eq, unbe_eq]
    exact bigEndian_zeros k p

end Sys2Proof.Machine
end

section
/-! PROOFS. The laws of the CRC (41_digest.md section 3): Affinity, since feeding a byte is linear over xor, and
Residue, since feeding the bytes of a word is the inner loop turned on the register xored with that word. -/

namespace Sys2Proof.Machine
open Sys2Proof

variable {a b c : Bytes}

/-! ## Affinity -/

/-- The bytewise xor of two sequences. -/
abbrev xorBytes (a b : Bytes) : Bytes := List.zipWith (· ^^^ ·) a b

theorem crcFeed_xor (x y : Word32) (a b : Byte) : crcFeed (x ^^^ y) (a ^^^ b) = crcFeed x a ^^^ crcFeed y b := by
  have hregroup (a b : Word32) : x ^^^ y ^^^ (a ^^^ b) = x ^^^ a ^^^ (y ^^^ b) := by ac_rfl
  rw [crcFeed, crcFeed, crcFeed, ← crcShifts_xor, BitVec.setWidth_xor, BitVec.shiftLeft_xor_distrib, hregroup]

/-- The register is linear in its start value and the sequence fed, together. -/
theorem foldl_crcFeed_xor (x y : Word32) (h : a.length = b.length) :
    (xorBytes a b).foldl crcFeed (x ^^^ y) = a.foldl crcFeed x ^^^ b.foldl crcFeed y := by
  induction a generalizing b x y with
  | nil =>
    rw [List.length_eq_zero_iff.mp h.symm]
    rfl
  | cons k a ih =>
    obtain ⟨l, b, rfl⟩ := List.exists_cons_of_length_eq_add_one h.symm
    rw [xorBytes, List.zipWith_cons_cons, List.foldl_cons, List.foldl_cons, List.foldl_cons, crcFeed_xor,
      ih _ _ (Nat.succ.inj h)]

/-- Settles O14: three copies of the start value, and of the final xor, are one. -/
theorem crcIsAffine : Obligations.CrcIsAffine := by
  intro a b c hab hbc
  have hxor : (xorBytes a b).length = c.length := by simp [hab, hbc]
  have hinit : Config.crcInit = Config.crcInit ^^^ Config.crcInit ^^^ Config.crcInit := by decide
  have hfinal : Config.crcFinalXor = Config.crcFinalXor ^^^ Config.crcFinalXor ^^^ Config.crcFinalXor := by decide
  have hregister : (xorBytes (xorBytes a b) c).foldl crcFeed Config.crcInit =
      a.foldl crcFeed Config.crcInit ^^^ b.foldl crcFeed Config.crcInit ^^^ c.foldl crcFeed Config.crcInit := by
    rw [← foldl_crcFeed_xor _ _ hab, ← foldl_crcFeed_xor _ _ hxor, ← hinit]
  rw [crc32Bzip2_eq, crc32Bzip2_eq, crc32Bzip2_eq, crc32Bzip2_eq, hregister]
  conv_rhs => rw [hfinal]
  ac_rfl

/-! ## Residue -/

/-- Feeding the top byte of `x` turns the loop on the register xored with all of `x`, but for the lower bytes of `x`,
which have yet to be fed: in the table form (R111) these only move up. -/
theorem crcFeed_top (r x : Word32) : crcFeed r (x.extractLsb' 24 8) = crcShifts 8 (r ^^^ x) ^^^ x <<< 8 := by
  have hzero : crcShifts 8 (r ^^^ x) = crcFeed (r ^^^ x) 0#8 := by simp [crcFeed]
  have hcancel (a b c : Word32) : a ^^^ b ^^^ c ^^^ b = a ^^^ c := by
    rw [BitVec.xor_assoc a b, BitVec.xor_comm b, ← BitVec.xor_assoc, BitVec.xor_assoc, BitVec.xor_self, BitVec.xor_zero]
  rw [hzero, crcFeed_eq_table, crcFeed_eq_table, BitVec.extractLsb'_xor, BitVec.xor_zero,
    BitVec.shiftLeft_xor_distrib, hcancel]

/-- The same for the byte of `x` at bit `24 - n`, once the `n` bits above it have been fed. -/
theorem crcFeed_next (r x : Word32) (n : Nat) (h : n ≤ 24) :
    crcFeed (r ^^^ x <<< n) (x.extractLsb' (24 - n) 8) = crcShifts 8 r ^^^ x <<< (n + 8) := by
  have hbyte : x.extractLsb' (24 - n) 8 = (x <<< n).extractLsb' 24 8 := by
    ext k hk
    have hin : 24 + k < 32 := by omega
    have hfed : ¬ 24 + k < n := by omega
    simp [hin, hfed, Nat.sub_add_comm h, BitVec.getLsbD_eq_getElem (show 24 - n + k < 32 by omega)]
  rw [hbyte, crcFeed_top, BitVec.xor_assoc, BitVec.xor_self, BitVec.xor_zero, BitVec.shiftLeft_add]

theorem foldl_crcFeed_wordBytes (r x : Word32) : (wordBytes x).foldl crcFeed r = crcShifts 32 (r ^^^ x) := by
  have hstart : r = r ^^^ x ^^^ x <<< 0 := by
    rw [BitVec.shiftLeft_zero, BitVec.xor_assoc, BitVec.xor_self, BitVec.xor_zero]
  have hend : x <<< 32 = 0#32 := BitVec.shiftLeft_eq_zero le_rfl
  calc (wordBytes x).foldl crcFeed r
      = crcFeed (crcFeed (crcFeed (crcFeed (r ^^^ x ^^^ x <<< 0) (x.extractLsb' (24 - 0) 8))
          (x.extractLsb' (24 - 8) 8)) (x.extractLsb' (24 - 16) 8)) (x.extractLsb' (24 - 24) 8) := by
        rw [← hstart]
        rfl
    _ = crcShifts 8 (crcShifts 8 (crcShifts 8 (crcShifts 8 (r ^^^ x)))) ^^^ x <<< 32 := by
        rw [crcFeed_next _ _ 0 (by decide), crcFeed_next _ _ 8 (by decide), crcFeed_next _ _ 16 (by decide),
          crcFeed_next _ _ 24 (by decide)]
    _ = crcShifts 32 (r ^^^ x) := by
        rw [hend, BitVec.xor_zero]
        rfl

/-- The digest is the register but for the final xor, so feeding it leaves the same register whatever was fed before. -/
theorem foldl_crcFeed_digest (p : Bytes) :
    (p ++ digest p).foldl crcFeed Config.crcInit = crcShifts 32 Config.crcFinalXor := by
  rw [List.foldl_append, digest, foldl_crcFeed_wordBytes, crc32Bzip2_eq, ← BitVec.xor_assoc, BitVec.xor_self,
    BitVec.zero_xor]

/-- Settles O15: the register after a sequence and its digest is one value, found by evaluation. -/
theorem crcResidueIsConstant : Obligations.CrcResidueIsConstant := by
  intro p
  rw [crc32Bzip2_eq, foldl_crcFeed_digest]
  decide +kernel

/-- Settles O16: by evaluation of the digests of the sequences named. -/
theorem digestsCollide : Obligations.DigestsCollide := by
  unfold Obligations.DigestsCollide
  decide

end Sys2Proof.Machine
end

section
/-! PROOFS. The wire layout of a frame (30_encoding.md section 3, R69, R70): which field a serialized frame has at which
offset, and the laws of the codec that follow (43_frame_codec.md section 3). -/

namespace Sys2Proof.Machine
open Sys2Proof

variable {c c' : Params} {p lt ln : Bytes} {f : Frame} {off n m k : Nat}

/-! ## Positional reads of a concatenation -/

/-- A read that begins where the part `mid` of a concatenation begins and is as long gives that part. -/
theorem memRead_flatten (parts : List Bytes) (k : Nat) {mid : Bytes} (hmid : parts[k]? = some mid)
    (hoff : ((parts.map List.length).take k).sum = off) (hn : mid.length = n) : memRead parts.flatten off n = mid := by
  obtain ⟨hk, rfl⟩ := List.getElem?_eq_some_iff.mp hmid
  have hsplit : parts.flatten = (parts.take k).flatten ++ (parts[k] ++ (parts.drop (k + 1)).flatten) := by
    rw [← List.flatten_cons, ← List.drop_eq_getElem_cons hk, ← List.flatten_append, List.take_append_drop]
  rw [hsplit, memRead, ← hoff, ← List.map_take, ← List.length_flatten, List.drop_left, ← hn, List.take_left]

/-- Two reads side by side are one. -/
theorem memRead_append_memRead (h : off + n = k) : memRead p off n ++ memRead p k m = memRead p off (n + m) := by
  rw [memRead, memRead, memRead, ← h, ← List.drop_drop, ← List.take_add]

theorem memRead_all (p : Bytes) : memRead p 0 p.length = p := List.take_length

/-! ## The fields of a serialized frame -/

/-- The fields of `f` stand in `w` at their offsets and with their widths, between the constant separators and markers
(R69, R70). -/
structure FieldsAt (w : Bytes) (f : Frame) : Prop where
  length : w.length = 62 + f.tokenLength + f.tailLength
  tokenLength : memRead w 0 4 = wordBytes (BitVec.ofNat 32 f.tokenLength)
  sep1 : memRead w 4 1 = [Config.sep1]
  tailLength : memRead w 5 4 = wordBytes (BitVec.ofNat 32 f.tailLength)
  sep2 : memRead w 9 1 = [Config.sep2]
  token : memRead w 10 f.tokenLength = f.token
  marker1 : memRead w (10 + f.tokenLength) 4 = Config.boundaryMarker
  wholeDigest : memRead w (14 + f.tokenLength) 4 = f.wholeDigest
  headDigest : memRead w (18 + f.tokenLength) 4 = f.headDigest
  tailDigest : memRead w (22 + f.tokenLength) 4 = f.tailDigest
  headSegment : memRead w (26 + f.tokenLength) 32 = f.headSegment
  marker2 : memRead w (58 + f.tokenLength) 4 = Config.boundaryMarker
  tailSegment : memRead w (62 + f.tokenLength) f.tailLength = f.tailSegment

/-- The parts of a serialized frame, in the order of R69. -/
def layoutParts (lt ln : Bytes) (f : Frame) : List Bytes :=
  [lt, [Config.sep1], ln, [Config.sep2], f.token, Config.boundaryMarker, f.wholeDigest, f.headDigest, f.tailDigest,
    f.headSegment, Config.boundaryMarker, f.tailSegment]

theorem layout_eq_flatten (lt ln : Bytes) (f : Frame) : layout lt ln f = (layoutParts lt ln f).flatten := by
  simp [layout, layoutParts]

/-- The widths of the parts (R69). -/
def layoutWidths (f : Frame) : List Nat := [4, 1, 4, 1, f.tokenLength, 4, 4, 4, 4, 32, 4, f.tailLength]

theorem layoutParts_lengths (hf : f.WellFormed) (hlt : lt.length = 4) (hln : ln.length = 4) :
    (layoutParts lt ln f).map List.length = layoutWidths f := by
  obtain ⟨htoken, hhead, htail, hwhole, hhdig, htdig⟩ := hf
  simp [layoutParts, layoutWidths, Config.boundaryMarker, *]

/-- The part `mid` of the layout is read at the sum of the widths before it. -/
theorem memRead_layout {mid : Bytes} (hf : f.WellFormed) (hlt : lt.length = 4) (hln : ln.length = 4) (k : Nat)
    (hmid : (layoutParts lt ln f)[k]? = some mid) (hn : mid.length = n)
    (hoff : ((layoutWidths f).take k).sum = off) : memRead (layout lt ln f) off n = mid := by
  rw [layout_eq_flatten]
  exact memRead_flatten _ k hmid (by rwa [layoutParts_lengths hf hlt hln]) hn

/-- The offsets of R70 are the sums of the widths of R69. -/
theorem fieldsAt_layout (hf : f.WellFormed) : FieldsAt
    (layout (wordBytes (BitVec.ofNat 32 f.tokenLength)) (wordBytes (BitVec.ofNat 32 f.tailLength)) f) f := by
  have hread {off n : Nat} {mid : Bytes} := memRead_layout (off := off) (n := n) (mid := mid) hf
    (wordBytes_length (BitVec.ofNat 32 f.tokenLength)) (wordBytes_length (BitVec.ofNat 32 f.tailLength))
  have hlength := layout_length f _ _ hf (wordBytes_length (BitVec.ofNat 32 f.tokenLength))
    (wordBytes_length (BitVec.ofNat 32 f.tailLength))
  obtain ⟨htoken, hhead, htail, hwhole, hhdig, htdig⟩ := hf
  constructor
  case length => exact hlength
  case tokenLength => exact hread 0 rfl rfl rfl
  case sep1 => exact hread 1 rfl rfl rfl
  case tailLength => exact hread 2 rfl rfl rfl
  case sep2 => exact hread 3 rfl rfl rfl
  case token => exact hread 4 rfl htoken.symm rfl
  case marker1 => exact hread 5 rfl rfl (by simp [layoutWidths]; omega)
  case wholeDigest => exact hread 6 rfl hwhole (by simp [layoutWidths]; omega)
  case headDigest => exact hread 7 rfl hhdig (by simp [layoutWidths]; omega)
  case tailDigest => exact hread 8 rfl htdig (by simp [layoutWidths]; omega)
  case headSegment => exact hread 9 rfl hhead (by simp [layoutWidths]; omega)
  case marker2 => exact hread 10 rfl rfl (by simp [layoutWidths]; omega)
  case tailSegment => exact hread 11 rfl htail (by simp [layoutWidths]; omega)

/-- A well-formed frame that serializes stands in the result field by field. -/
theorem fieldsAt_of_serialize {w : Bytes} (hf : f.WellFormed) (hw : serialize f = .ok w) :
    f.tokenLength ≤ 0xFFFFFFFF ∧ f.tailLength ≤ 0xFFFFFFFF ∧ FieldsAt w f := by
  by_cases h : 0xFFFFFFFF < f.tokenLength ∨ 0xFFFFFFFF < f.tailLength
  · rw [serialize_tooBig h] at hw
    cases hw
  · have ht : f.tokenLength ≤ 0xFFFFFFFF := by omega
    have hn : f.tailLength ≤ 0xFFFFFFFF := by omega
    rw [serialize_fits ht hn, Except.ok.injEq] at hw
    rw [← hw]
    exact ⟨ht, hn, fieldsAt_layout hf⟩

/-- Settles O20: the layout holds the fields at their offsets, and the last read goes to the end. -/
theorem serializedFieldsStandAtTheirOffsets : Obligations.SerializedFieldsStandAtTheirOffsets := by
  intro f hf ht hn
  have hat := fieldsAt_layout hf
  refine ⟨_, serialize_fits ht hn, hat.length, ?_, hat.sep1, ?_, hat.sep2, hat.token, hat.marker1, hat.wholeDigest,
    hat.headDigest, hat.tailDigest, hat.headSegment, hat.marker2, ?_⟩
  · rw [be4_fits ht, ← hat.tokenLength]
    rfl
  · rw [be4_fits hn, ← hat.tailLength]
    rfl
  · refine Eq.trans ?_ hat.tailSegment
    rw [memRead, List.take_of_length_le]
    rw [List.length_drop, hat.length]
    omega

/-- Settles O21: the fixed part is 62 bytes, of which 32 hold the head of the original. -/
theorem builtFrameLength : Obligations.BuiltFrameLength := by
  intro o t f w hb hw
  obtain ⟨ho, rfl⟩ := build_ok hb
  obtain ⟨-, -, hat⟩ := fieldsAt_of_serialize (frameOf_wellFormed o t ho) hw
  rw [hat.length, frameOf_tailLength]
  change 62 + t.length + (o.length - 32) = 30 + t.length + o.length
  omega

/-! ## Parsing what was serialized -/

section
variable {w : Bytes} (ht : f.tokenLength ≤ 0xFFFFFFFF) (hn : f.tailLength ≤ 0xFFFFFFFF) (hat : FieldsAt w f)
include ht hat

theorem FieldsAt.declaredToken : declaredToken w = f.tokenLength := by
  rw [Machine.declaredToken, hat.tokenLength, unbe_wordBytes ht]

omit ht in
include hn in
theorem FieldsAt.declaredTail : declaredTail w = f.tailLength := by
  rw [Machine.declaredTail, hat.tailLength, unbe_wordBytes hn]

include hn

theorem FieldsAt.parseAccepts (c : Params) : ParseAccepts c w := by
  have hlength := hat.length
  rw [parseAccepts_iff, framingDrift_eq_false_iff, hat.declaredToken ht, hat.declaredTail hn]
  exact ⟨by omega, by omega, fun _ => hlength,
    fun _ => ⟨memRead_one_eq_iff.mp hat.sep1, memRead_one_eq_iff.mp hat.sep2, hat.marker1, hat.marker2⟩⟩

theorem FieldsAt.frameAt_eq : frameAt w = f := by
  rw [frameAt, hat.declaredToken ht, hat.declaredTail hn, hat.token, hat.wholeDigest, hat.headDigest,
    hat.tailDigest, hat.headSegment, hat.tailSegment]

end

/-- A well-formed frame parses back from its serialized form, strict or not. -/
theorem parse_serialize {w : Bytes} (c : Params) (hf : f.WellFormed) (hw : serialize f = .ok w) :
    ParseAccepts c w ∧ frameAt w = f := by
  obtain ⟨ht, hn, hat⟩ := fieldsAt_of_serialize hf hw
  exact ⟨hat.parseAccepts ht hn c, hat.frameAt_eq ht hn⟩

@[simp] theorem rev_rev (p : Bytes) : rev (rev p) = p := List.reverse_reverse p

/-- The segments of a built frame, each reversed back, are the original. -/
theorem original_frameOf (o t : Bytes) : original (frameOf o t) = o := by
  rw [original, frameOf, rev_rev, rev_rev]
  exact List.take_append_drop _ o

/-- Settles O28: the serialized form parses to the frame it is of, and `rev` undoes itself. -/
theorem roundTripRecoversTheOriginal : Obligations.RoundTripRecoversTheOriginal := by
  intro c x t hx
  refine ⟨frameOf x t, build_fits hx, ⟨fun ⟨w, hw⟩ => ?_, fun ⟨ht, hn⟩ => ?_⟩, fun w hw => ⟨?_, original_frameOf x t⟩⟩
  · obtain ⟨ht, hn, -⟩ := fieldsAt_of_serialize (frameOf_wellFormed x t hx) hw
    rw [frameOf_tailLength] at hn
    exact ⟨ht, hn⟩
  · obtain ⟨w, hw, -⟩ := serialize_frameOf hx ht hn
    exact ⟨w, hw⟩
  · obtain ⟨haccepts, hframe⟩ := parse_serialize c (frameOf_wellFormed x t hx) hw
    rw [parse_accepted haccepts, hframe]

/-! ## Serializing what was parsed -/

/-- The lengths a buffer declares fit 4 bytes, since they are read from 4 bytes (C6). -/
theorem declaredToken_le (p : Bytes) : declaredToken p ≤ 0xFFFFFFFF := unbe_le_encodeMax (memRead_length_le p 0 4)

theorem declaredTail_le (p : Bytes) : declaredTail p ≤ 0xFFFFFFFF := unbe_le_encodeMax (memRead_length_le p 5 4)

/-- Serializing the fields of a buffer writes its own two length fields again. -/
theorem serialize_frameAt (h : 9 ≤ p.length) :
    serialize (frameAt p) = .ok (layout (memRead p 0 4) (memRead p 5 4) (frameAt p)) := by
  have htoken : wordBytes (BitVec.ofNat 32 (frameAt p).tokenLength) = memRead p 0 4 :=
    wordBytes_unbe (memRead_length p 0 4 (by omega))
  have htail : wordBytes (BitVec.ofNat 32 (frameAt p).tailLength) = memRead p 5 4 :=
    wordBytes_unbe (memRead_length p 5 4 (by omega))
  rw [serialize_fits (declaredToken_le p) (declaredTail_le p), htoken, htail]

/-- The three digests and the head segment stand side by side, 44 bytes (R70). -/
theorem layout_frameAt (lt ln p : Bytes) : layout lt ln (frameAt p) =
    lt ++ [Config.sep1] ++ ln ++ [Config.sep2] ++ memRead p 10 (declaredToken p) ++ Config.boundaryMarker ++
      memRead p (14 + declaredToken p) 44 ++ Config.boundaryMarker ++
      memRead p (62 + declaredToken p) (declaredTail p) := by
  have hjoin : memRead p (14 + declaredToken p) 44 =
      memRead p (14 + declaredToken p) 4 ++ memRead p (18 + declaredToken p) 4 ++
        memRead p (22 + declaredToken p) 4 ++ memRead p (26 + declaredToken p) 32 := by
    rw [memRead_append_memRead (by omega), memRead_append_memRead (by omega), memRead_append_memRead (by omega)]
  rw [hjoin, layout, frameAt]
  simp only [List.append_assoc]

/-- A buffer whose separators and markers are the constants, with nothing after the declared frame, is its own layout. -/
theorem layout_frameAt_eq_self (hlen : p.length = 62 + declaredToken p + declaredTail p)
    (hframing : framingDrift p = false) : layout (memRead p 0 4) (memRead p 5 4) (frameAt p) = p := by
  obtain ⟨hsep1, hsep2, hmarker1, hmarker2⟩ := framingDrift_eq_false_iff.mp hframing
  rw [← memRead_one_eq_iff] at hsep1 hsep2
  calc layout (memRead p 0 4) (memRead p 5 4) (frameAt p)
      = memRead p 0 4 ++ memRead p 4 1 ++ memRead p 5 4 ++ memRead p 9 1 ++ memRead p 10 (declaredToken p) ++
          memRead p (10 + declaredToken p) 4 ++ memRead p (14 + declaredToken p) 44 ++
          memRead p (58 + declaredToken p) 4 ++ memRead p (62 + declaredToken p) (declaredTail p) := by
        rw [layout_frameAt, hsep1, hsep2, hmarker1, hmarker2]
    _ = memRead p 0 (4 + 1 + 4 + 1 + declaredToken p + 4 + 44 + 4 + declaredTail p) := by
        rw [memRead_append_memRead (by omega), memRead_append_memRead (by omega), memRead_append_memRead (by omega),
          memRead_append_memRead (by omega), memRead_append_memRead (by omega), memRead_append_memRead (by omega),
          memRead_append_memRead (by omega), memRead_append_memRead (by omega)]
    _ = memRead p 0 p.length := by
        rw [hlen]
        congr 1
        omega
    _ = p := memRead_all p

/-- Settles O30: the layout of a parsed frame, and that of a buffer with constant framing is the buffer. -/
theorem reserializingRestoresTheFraming : Obligations.ReserializingRestoresTheFraming := by
  intro c p f hp
  obtain ⟨hlen, rfl⟩ := parse_ok hp
  have hserialize := serialize_frameAt (p := p) (by omega)
  refine ⟨?_, fun hsep1 hsep2 hmarker1 hmarker2 hexact => ?_⟩
  · rw [hserialize, layout_frameAt]
    rfl
  · rw [hserialize, layout_frameAt_eq_self hexact
      (framingDrift_eq_false_iff.mpr ⟨hsep1, hsep2, hmarker1, hmarker2⟩)]

/-! ## Which buffers are accepted under other parameters -/

/-- A block that checks less accepts what a block accepts that checks more. -/
theorem ParseAccepts.weaken (h : ParseAccepts c p)
    (htrailing : c'.trailingPolicy = .reject → c.trailingPolicy = .reject)
    (hstrict : c'.strictFraming = true → c.strictFraming = true) : ParseAccepts c' p := by
  obtain ⟨hmin, hlen, hreject, hframing⟩ := h
  exact ⟨hmin, hlen, fun h => hreject (htrailing h), fun h => hframing (hstrict h)⟩

/-- Settles O34: each of the two changes only drops a check, and the frame read is the same. -/
theorem stricterParametersOnlyRejectMore : Obligations.StricterParametersOnlyRejectMore := by
  intro c p f hp
  have haccepts := parseAccepts_of_parse_ok hp
  obtain ⟨-, rfl⟩ := parse_ok hp
  exact ⟨parse_accepted (haccepts.weaken id nofun), parse_accepted (haccepts.weaken nofun id)⟩

end Sys2Proof.Machine
end

section
/-! PROOFS. SERIALIZE and ORIGINAL (43_frame_codec.md R133, R140): what they answer in each case, and the round trip
through the frame register (section 3, "Round trip"). -/

namespace Sys2Proof.Machine
open Sys2Proof

variable {s : State} {f : Frame}

/-! ## SERIALIZE -/

section
variable (hv : s.fv = true) (hf : s.fr = some f)
include hv hf

theorem exec_serialize_eq :
    exec .serialize s = orRaise (serialize f) s fun r => returnBytes r s s.consumeFrame :=
  withFrame_some hv hf

theorem exec_serialize_tooBig (h : 0xFFFFFFFF < f.tokenLength ∨ 0xFFFFFFFF < f.tailLength) :
    exec .serialize s = .next (s.respond (.err .encodingError)) := by
  rw [exec_serialize_eq hv hf, serialize_tooBig h, orRaise_error, raise_eq]

section
variable {w : Bytes} (hw : serialize f = .ok w)
include hw

theorem exec_serialize_fits (hlen : w.length ≤ s.params.maxLen) :
    exec .serialize s = .next (s.consumeFrame.respond (.ok (.bytes w))) := by
  rw [exec_serialize_eq hv hf, hw, orRaise_ok, returnBytes_fits hlen]

theorem exec_serialize_tooLong (hlen : s.params.maxLen < w.length) :
    exec .serialize s = .next (s.respond (.err .capacityError)) := by
  rw [exec_serialize_eq hv hf, hw, orRaise_ok, returnBytes_tooLong hlen]

end

end

/-- A well-formed frame whose lengths fit 4 bytes serializes, to the length of R71. -/
theorem serialize_wellFormed (hf : f.WellFormed) (ht : f.tokenLength ≤ 0xFFFFFFFF) (hn : f.tailLength ≤ 0xFFFFFFFF) :
    ∃ w, serialize f = .ok w ∧ w.length = 62 + f.tokenLength + f.tailLength :=
  ⟨_, serialize_fits ht hn, (fieldsAt_layout hf).length⟩

/-- Settles O19: the lengths either fit or do not, and the result is as long as the layout. -/
theorem serializeEmitsAndConsumes : Obligations.SerializeEmitsAndConsumes := by
  refine ⟨by decide, fun s => ⟨exec_noFrame rfl, fun f hv hf hwf => ⟨fun ht hn hlen => ?_,
    exec_serialize_tooBig hv hf, fun ht hn hlen => ?_⟩⟩⟩
  · exact exec_serialize_fits hv hf (serialize_fits ht hn) ((fieldsAt_layout hwf).length.trans_le hlen)
  · exact exec_serialize_tooLong hv hf (serialize_fits ht hn) (hlen.trans_eq (fieldsAt_layout hwf).length.symm)

/-! ## ORIGINAL -/

theorem exec_original_fits (hv : s.fv = true) (hf : s.fr = some f) (h : (original f).length ≤ s.params.maxLen) :
    exec .original s = .next (s.consumeFrame.respond (.ok (.bytes (original f)))) :=
  (withFrame_some hv hf).trans (returnBytes_fits h)

/-- In a state the invariant allows the original fits, as it came from a buffer within `MAX_LEN` (R140). -/
theorem State.Inv.original_length_le (hs : s.Inv) (hv : s.fv = true) (hf : s.fr = some f) :
    (original f).length ≤ s.params.maxLen := by
  obtain ⟨hwf, -, hfits⟩ := hs.wellFormed_fitsIn hv hf
  rwa [original_length hwf]

/-- Settles O24: the original has the length of its segments, and fits. -/
theorem originalReturnsAndConsumes : Obligations.OriginalReturnsAndConsumes := by
  refine ⟨by decide, fun s hs => ⟨exec_noFrame rfl, fun f hv hf => ?_⟩⟩
  obtain ⟨hwf, -⟩ := hs.wellFormed_fitsIn hv hf
  exact ⟨original_length hwf, exec_original_fits hv hf (hs.original_length_le hv hf)⟩

/-! ## The round trip -/

/-- Settles O29: each command finds what the one before it left, and the frame parsed is the frame built. -/
theorem roundTripThroughTheFrameRegister : Obligations.RoundTripThroughTheFrameRegister := by
  intro s q2 q3 q4 hs ho ht hn hmax hb3
  have ha : s.request.a.length ≤ s.params.maxLen := by omega
  have hb : s.request.b.length ≤ s.params.maxLen := by omega
  obtain ⟨w, hw, hlength⟩ := serialize_frameOf ho ht hn
  have hfits : w.length ≤ s.params.maxLen := hlength.trans_le hmax
  obtain ⟨haccepts, hframe⟩ := parse_serialize s.params (frameOf_wellFormed _ _ ho) hw
  have horiginal : original (frameAt w) = s.request.a := by rw [hframe, original_frameOf]
  refine ⟨_, _, _, _, w, exec_build_fits ha hb ho, exec_serialize_fits rfl rfl hw hfits, rfl,
    exec_parse_accepted hfits hb3 haccepts, exec_original_fits rfl rfl ?_, ?_, rfl⟩
  · rw [horiginal]
    exact ha
  · simp [horiginal]

end Sys2Proof.Machine
end

section
/-! PROOFS. What a command's answer depends on (10_state.md R20, 30_encoding.md R63) and which errors it raises
(60_exceptions.md R170): the parameters, the request fields it reads and, if `FV` guards it, `FR` and `FV` decide one
verdict, which is then carried out on the rest of the state. This takes `RepliesAlike` further, to the commands that read
`FR` and to requests that agree only on the fields read. -/

namespace Sys2Proof.Machine
open Sys2Proof

variable {s s' t : State} {i : Instr} {e : ErrorKind}

/-! ## Verdicts -/

/-- What a command decides to do. -/
inductive Verdict where
  | answer (r : Response)
  | load (f : Frame)
  | consume (r : Bytes)
  | stop

/-- Carry a verdict out. -/
def Verdict.apply : Verdict → State → Answer
  | .answer r, s => .next (s.respond r)
  | .load f, s => .next ((s.loadFrame f).respond (.ok .none))
  | .consume r, s => .next (s.consumeFrame.respond (.ok (.bytes r)))
  | .stop, _ => .fault .unguardedFrameRead

/-- The column "raised by" of the table of error kinds (R170), for errors of a command. An illegal word is the step's. -/
def ErrorKind.raisedBy : ErrorKind → Instr → Bool
  | .formatError, i => i ∈ [Instr.build, .parse, .encodeFile, .decodeFile]
  | .encodingError, i => i ∈ [Instr.fwiEnc, .serialize, .encodeFile]
  | .ioError, _ => false
  | .illegalCommand, _ => false
  | .noFrame, i => i.needsFrame
  | .operandError, i => i == .fwiDec
  | .capacityError, i => i != .frReadTlen && i != .frReadNlen

/-- A verdict `i` can come to in `s`: an error of its own, and a stop only on a register without the value `FV` says it
has (log 5). -/
def Verdict.Permitted (i : Instr) (s : State) : Verdict → Prop
  | .answer r => ∀ e, r = .err e → e.raisedBy i = true
  | .load _ => True
  | .consume _ => True
  | .stop => s.fv = true ∧ s.fr = none

/-- `u` agrees with `s` on all that `i` reads: the parameters, the request fields R63 lists, and `FR` with `FV` if it is
guarded by `FV`. -/
structure SameReads (i : Instr) (s u : State) : Prop where
  params : u.params = s.params
  a : i.usesA = true → u.request.a = s.request.a
  b : i.usesB = true → u.request.b = s.request.b
  v : i.usesV = true → u.request.v = s.request.v
  fr : i.needsFrame = true → u.fr = s.fr
  fv : i.needsFrame = true → u.fv = s.fv

/-- In every state that agrees with `s` on what `i` reads, `k` carries out one and the same permitted verdict. -/
def Decides (i : Instr) (s : State) (k : State → Answer) : Prop :=
  ∃ d : Verdict, d.Permitted i s ∧ ∀ u, SameReads i s u → k u = d.apply u

/-! ## The shared operations decide -/

theorem Decides.congr {k k' : State → Answer} (hk : Decides i s k) (h : ∀ u, SameReads i s u → k' u = k u) :
    Decides i s k' := by
  obtain ⟨d, hd, hk⟩ := hk
  exact ⟨d, hd, fun u hu => (h u hu).trans (hk u hu)⟩

theorem decides_ok (res : Result) : Decides i s fun u => .next (u.respond (.ok res)) :=
  ⟨.answer (.ok res), nofun, fun _ _ => rfl⟩

theorem decides_raise (h : e.raisedBy i = true) : Decides i s (raise e) :=
  ⟨.answer (.err e), fun _ he => Response.err.inj he ▸ h, fun _ _ => rfl⟩

theorem decides_load (f : Frame) : Decides i s fun u => returnNone (u.loadFrame f) :=
  ⟨.load f, trivial, fun _ _ => rfl⟩

section
variable (hcap : ErrorKind.capacityError.raisedBy i = true)
include hcap

theorem decides_returnBytes (r : Bytes) : Decides i s fun u => returnBytes r u u := by
  rcases Nat.lt_or_ge s.params.maxLen r.length with hl | hl
  · exact (decides_raise hcap).congr fun u hu => returnBytes_tooLong (by rwa [hu.params])
  · exact (decides_ok (.bytes r)).congr fun u hu => returnBytes_fits (by rwa [hu.params])

theorem decides_consume (r : Bytes) : Decides i s fun u => returnBytes r u u.consumeFrame := by
  rcases Nat.lt_or_ge s.params.maxLen r.length with hl | hl
  · exact (decides_raise hcap).congr fun u hu => returnBytes_tooLong (by rwa [hu.params])
  · exact ⟨.consume r, trivial, fun u hu => returnBytes_fits (by rwa [hu.params])⟩

theorem decides_useA {k : State → Answer} (ha : i.usesA = true) (hk : Decides i s k) :
    Decides i s fun u => useA u (k u) := by
  rcases Nat.lt_or_ge s.params.maxLen s.request.a.length with hl | hl
  · exact (decides_raise hcap).congr fun u hu => useBuffer_tooLong (by rwa [hu.params, State.opA, hu.a ha])
  · exact hk.congr fun u hu => useBuffer_fits (by rwa [hu.params, State.opA, hu.a ha])

theorem decides_useAB {k : State → Answer} (ha : i.usesA = true) (hb : i.usesB = true) (hk : Decides i s k) :
    Decides i s fun u => useAB u (k u) := by
  by_cases hl : s.params.maxLen < s.request.a.length ∨ s.params.maxLen < s.request.b.length
  · exact (decides_raise hcap).congr fun u hu => useAB_tooLong (by rwa [hu.params, hu.a ha, hu.b hb])
  · exact hk.congr fun u hu => useAB_fits (by rw [hu.params, hu.a ha]; omega) (by rw [hu.params, hu.b hb]; omega)

end

theorem decides_orRaise {α : Type} {k : α → State → Answer} {x : Except ErrorKind α}
    (hx : ∀ e, x = .error e → e.raisedBy i = true) (hk : ∀ v, Decides i s (k v)) :
    Decides i s fun u => orRaise x u fun v => k v u := by
  cases x with
  | error e => exact decides_raise (hx e rfl)
  | ok v => exact hk v

theorem decides_withFrame {k : Frame → State → Answer} (hn : i.needsFrame = true) (hk : ∀ f, Decides i s (k f)) :
    Decides i s fun u => withFrame u fun f => k f u := by
  cases hv : s.fv with
  | false => exact (decides_raise (e := .noFrame) hn).congr fun u hu => withFrame_noFrame ((hu.fv hn).trans hv)
  | true =>
    cases hf : s.fr with
    | none => exact ⟨.stop, ⟨hv, hf⟩, fun u hu => by simp [withFrame, Verdict.apply, hu.fv hn, hu.fr hn, hv, hf]⟩
    | some f => exact (hk f).congr fun u hu => withFrame_some ((hu.fv hn).trans hv) ((hu.fr hn).trans hf)

/-! ## The commands decide -/

theorem be4_error {v : Nat} (h : be4 v = .error e) : e = .encodingError := by
  unfold be4 at h
  split at h
  · exact (Except.error.inj h).symm
  · cases h

theorem serialize_error {f : Frame} (h : serialize f = .error e) : e = .encodingError := by
  unfold serialize at h
  split at h
  next e' hlt => exact Except.error.inj h ▸ be4_error hlt
  next lt hlt =>
  split at h
  next e' hln => exact Except.error.inj h ▸ be4_error hln
  next ln hln => cases h

theorem decides_readBytes (field : Frame → Bytes) (hn : i.needsFrame = true)
    (hcap : ErrorKind.capacityError.raisedBy i = true) : Decides i s (readBytes field) :=
  decides_withFrame hn fun f => decides_returnBytes hcap (field f)

theorem decides_readLength (field : Frame → Nat) (hn : i.needsFrame = true) : Decides i s (readLength field) :=
  decides_withFrame hn fun _ => decides_ok _

theorem build_error_eq {o t : Bytes} (h : build o t = .error e) : e = .formatError := by
  obtain ⟨-, he⟩ := build_error h
  exact he

/-- FWI_DEC after its capacity check, on the operand `p`. -/
theorem decides_decode (p : Bytes) : Decides .fwiDec s fun u =>
    if Config.decodeMax < p.length then raise .operandError u else returnValue (BitVec.ofNat 64 (unbe p)) u := by
  split
  · exact decides_raise rfl
  · exact decides_ok _

theorem exec_decides (i : Instr) (s : State) : Decides i s (exec i) := by
  cases i with
  | fwiEnc =>
    refine (decides_orRaise (x := be4 s.opV.toNat) (fun e he => be4_error he ▸ rfl)
      (decides_returnBytes rfl)).congr fun u hu => ?_
    simp only [exec, execFwiEnc, State.opV, hu.v rfl]
  | fwiDec =>
    refine (decides_useA rfl rfl (decides_decode s.opA)).congr fun u hu => ?_
    simp only [exec, execFwiDec, State.opA, hu.a rfl]
  | crc =>
    refine (decides_useA rfl rfl (decides_returnBytes rfl (digest s.opA))).congr fun u hu => ?_
    simp only [exec, execCrc, State.opA, hu.a rfl]
  | rev =>
    refine (decides_useA rfl rfl (decides_returnBytes rfl (rev s.opA))).congr fun u hu => ?_
    simp only [exec, execRev, State.opA, hu.a rfl]
  | build =>
    refine (decides_useAB rfl rfl rfl (decides_orRaise (x := build s.opA s.opB)
      (fun e he => build_error_eq he ▸ rfl) decides_load)).congr fun u hu => ?_
    simp only [exec, execBuild, State.opA, State.opB, hu.a rfl, hu.b rfl]
  | parse =>
    refine (decides_useAB rfl rfl rfl (decides_orRaise (x := parse s.params s.opA)
      (fun e he => parse_error he ▸ rfl) decides_load)).congr fun u hu => ?_
    simp only [exec, execParse, State.opA, hu.params, hu.a rfl]
  | encodeFile =>
    refine (decides_useAB rfl rfl rfl (decides_orRaise (x := build s.opA s.opB)
      (fun e he => build_error_eq he ▸ rfl) fun f => decides_orRaise (x := serialize f)
      (fun e he => serialize_error he ▸ rfl) (decides_returnBytes rfl))).congr fun u hu => ?_
    simp only [exec, execEncodeFile, State.opA, State.opB, hu.a rfl, hu.b rfl]
  | decodeFile =>
    refine (decides_useAB rfl rfl rfl (decides_orRaise (x := parse s.params s.opA)
      (fun e he => parse_error he ▸ rfl) fun f => decides_returnBytes rfl (original f))).congr fun u hu => ?_
    simp only [exec, execDecodeFile, State.opA, hu.params, hu.a rfl]
  | serialize =>
    exact decides_withFrame rfl fun f => decides_orRaise (x := serialize f)
      (fun e he => serialize_error he ▸ rfl) (decides_consume rfl)
  | original => exact decides_withFrame rfl fun f => decides_consume rfl (original f)
  | frReadToken => exact decides_readBytes _ rfl rfl
  | frReadTlen => exact decides_readLength _ rfl
  | frReadNlen => exact decides_readLength _ rfl
  | frReadWdig => exact decides_readBytes _ rfl rfl
  | frReadHdig => exact decides_readBytes _ rfl rfl
  | frReadTdig => exact decides_readBytes _ rfl rfl
  | frReadHseg => exact decides_readBytes _ rfl rfl
  | frReadTseg => exact decides_readBytes _ rfl rfl

/-- The inversion of `exec` by verdicts. -/
theorem exec_verdict (i : Instr) (s : State) :
    ∃ d : Verdict, d.Permitted i s ∧ exec i s = d.apply s ∧ ∀ u, SameReads i s u → exec i u = d.apply u := by
  obtain ⟨d, hd, hk⟩ := exec_decides i s
  exact ⟨d, hd, hk s ⟨rfl, fun _ => rfl, fun _ => rfl, fun _ => rfl, fun _ => rfl, fun _ => rfl⟩, hk⟩

/-! ## What commands read -/

theorem Verdict.apply_ne_refused (d : Verdict) (s : State) (r : Refusal) : d.apply s ≠ .refused r := by
  cases d <;> exact nofun

/-- Carrying a verdict out does not look at the request. -/
theorem Verdict.apply_withRequest {d : Verdict} (q : Request) (h : d.apply s = .next t) :
    d.apply { s with request := q } = .next { t with request := q } := by
  cases d with
  | answer | load | consume => cases h; rfl
  | stop => cases h

/-- Nor at the inputs to come. -/
theorem Verdict.apply_withInputs {d : Verdict} (more : List PortInput) (h : d.apply s = .next t) :
    d.apply { s with inputs := s.inputs ++ more } = .next { t with inputs := t.inputs ++ more } := by
  cases d with
  | answer | load | consume => cases h; rfl
  | stop => cases h

/-- It writes `FR` and `FV` and appends one response, alike in any two states that agree on `FR` and `FV`. -/
theorem Verdict.apply_agree {d : Verdict} (h : d.apply s = .next t) (hfr : s.fr = s'.fr) (hfv : s.fv = s'.fv) :
    ∃ t' r, d.apply s' = .next t' ∧ t'.fr = t.fr ∧ t'.fv = t.fv ∧ t.responses = s.responses ++ [r] ∧
      t'.responses = s'.responses ++ [r] := by
  cases d with
  | answer r => cases h; exact ⟨_, r, rfl, hfr.symm, hfv.symm, rfl, rfl⟩
  | load f => cases h; exact ⟨_, _, rfl, rfl, rfl, rfl, rfl⟩
  | consume r => cases h; exact ⟨_, _, rfl, rfl, rfl, rfl, rfl⟩
  | stop => cases h

/-- A command that answers answers in the same way in a state that agrees on all of the block's own state and on the
request. -/
theorem exec_agree (hfr : s.fr = s'.fr) (hfv : s.fv = s'.fv) (hp : s.params = s'.params)
    (hq : s.request = s'.request) (h : exec i s = .next t) :
    ∃ t' r, exec i s' = .next t' ∧ t'.fr = t.fr ∧ t'.fv = t.fv ∧ t.responses = s.responses ++ [r] ∧
      t'.responses = s'.responses ++ [r] := by
  obtain ⟨d, -, hd, hsame⟩ := exec_verdict i s
  rw [hsame s' ⟨hp.symm, fun _ => by rw [hq], fun _ => by rw [hq], fun _ => by rw [hq], fun _ => hfr.symm,
    fun _ => hfv.symm⟩]
  exact Verdict.apply_agree (hd.symm.trans h) hfr hfv

/-- Settles O42: the verdict is decided by what the two states agree on. -/
theorem onlyFrAndFvPersist : Obligations.OnlyFrAndFvPersist :=
  fun _ _ _ _ hfr hfv hp hq h => exec_agree hfr hfv hp hq h

/-- Settles O41: the verdict is decided by the fields read, and carried out whatever the request. -/
theorem unlistedRequestFieldsAreIgnored : Obligations.UnlistedRequestFieldsAreIgnored := by
  intro i s q ha hb hv
  obtain ⟨d, -, hd, hsame⟩ := exec_verdict i s
  rw [hd, hsame { s with request := q } ⟨rfl, ha, hb, hv, fun _ => rfl, fun _ => rfl⟩]
  refine ⟨fun t => Verdict.apply_withRequest q, fun r h => ?_, d.apply_ne_refused s⟩
  cases d with
  | answer | load | consume => cases h
  | stop => exact h

/-! ## Which errors a command raises -/

/-- A command that answers an error is listed for it in R170. -/
theorem exec_error_raisedBy (h : exec i s = .next t) (hr : t.responses = s.responses ++ [.err e]) :
    e.raisedBy i = true := by
  obtain ⟨d, hperm, hd, -⟩ := exec_verdict i s
  rw [hd] at h
  cases d with
  | answer r =>
    cases h
    exact hperm e (by simpa using hr)
  | load f => cases h; simp at hr
  | consume r => cases h; simp at hr
  | stop => cases h

/-- A register that holds a value while `FV = 1` is enough for every command to answer. -/
theorem exec_answers (i : Instr) (h : s.fv = true → ∃ f, s.fr = some f) : ∃ t, exec i s = .next t := by
  obtain ⟨d, hperm, hd, -⟩ := exec_verdict i s
  cases d with
  | answer | load | consume => exact ⟨_, hd⟩
  | stop =>
    obtain ⟨hv, hnone⟩ := hperm
    obtain ⟨f, hf⟩ := h hv
    simp [hf] at hnone

/-- IO_ERROR, the one kind outside the core, is raised by no step. -/
theorem step_error_ne_ioError (h : step s = .next t) (hr : t.responses = s.responses ++ [.err e]) : e ≠ .ioError := by
  rintro rfl
  rcases step_next h with ⟨-, rfl⟩ | ⟨rest, -, rfl⟩ | ⟨r, rest, -, ⟨i, -, h⟩ | ⟨why, -, rfl⟩⟩
  · simp at hr
  · simp at hr
  · exact absurd (exec_error_raisedBy h hr) nofun
  · simp at hr

/-- Settles O38: the table of R170 holds of each verdict, and the step adds ILLEGAL_COMMAND. -/
theorem errorsAreRaisedOnlyByTheirCommands : Obligations.ErrorsAreRaisedOnlyByTheirCommands := by
  refine ⟨⟨fun _ => rfl, rfl, rfl, rfl, rfl, rfl, rfl, rfl⟩, fun i s t e h hr => ?_, fun s t r h hr => ?_⟩
  · have hraised := exec_error_raisedBy h hr
    revert hraised
    cases e <;> simp [ErrorKind.raisedBy]
  · cases r with
    | ok res => exact ⟨List.mem_cons_self, by simp [Response.errCode]⟩
    | err e =>
      refine ⟨?_, by simp [Response.errCode, e.code_ne_zero]⟩
      have hio : e ≠ .ioError := step_error_ne_ioError h hr
      cases e <;> simp [Response.errCode, ErrorKind.code] at hio ⊢

/-- Settles O31: the lengths are read from 4 bytes each, and PARSE is not among the commands of ENCODING_ERROR. -/
theorem parseNeverRaisesEncodingError : Obligations.ParseNeverRaisesEncodingError := by
  refine ⟨fun c p f hp => ?_, fun s t h hr => absurd (exec_error_raisedBy h hr) (by decide)⟩
  obtain ⟨-, rfl⟩ := parse_ok hp
  exact ⟨declaredToken_le p, declaredTail_le p, _, serialize_fits (declaredToken_le p) (declaredTail_le p)⟩

/-! ## The hazards of loading a frame (70_reset_and_hazards.md section 2) -/

/-- The only success of BUILD and PARSE loads a well-formed frame (R23, R131, R138). -/
theorem Effect.loaded {res : Result} (h : Effect i s t) (hl : i.loadsFrame = true)
    (hr : t.responses = s.responses ++ [.ok res]) :
    ∃ f, f.WellFormed ∧ t = (s.loadFrame f).respond (.ok .none) := by
  rcases h with ⟨e, rfl⟩ | ⟨hl', -⟩ | ⟨-, f, hf, ht, -⟩ | ⟨hc, -⟩
  · simp at hr
  · simp [hl] at hl'
  · exact ⟨f, hf, ht⟩
  · simp [consumesFrame_of_loadsFrame hl] at hc

/-- What a successful BUILD or PARSE loads does not depend on `FR` and `FV` (R193): these commands read neither, and
from `FV = 0` only loading a frame gives a success. -/
theorem exec_loaded {res : Result} (hl : i.loadsFrame = true) (h : exec i s = .next t)
    (hr : t.responses = s.responses ++ [.ok res]) (g : Option Frame) (b : Bool) :
    exec i { s with fr := g, fv := b } = .next t := by
  have hn : i.needsFrame = false := by rcases loadsFrame_iff.mp hl with rfl | rfl <;> rfl
  obtain ⟨d, -, hd, hsame⟩ := exec_verdict i s
  have hslot (g : Option Frame) (b : Bool) : exec i { s with fr := g, fv := b } = d.apply { s with fr := g, fv := b } :=
    hsame _ ⟨rfl, fun _ => rfl, fun _ => rfl, fun _ => rfl, fun h => by simp [hn] at h, fun h => by simp [hn] at h⟩
  rw [hd] at h
  cases d with
  | answer r =>
    cases h
    obtain rfl : r = .ok res := by simpa using hr
    obtain ⟨f, -, hf⟩ := (exec_next (hslot none false)).loaded hl rfl
    exact absurd (congrArg State.fv hf) nofun
  | load f =>
    cases h
    exact hslot g b
  | consume r =>
    cases h
    obtain ⟨f, -, hf⟩ := (exec_next hd).loaded hl rfl
    exact absurd (congrArg State.fv hf) nofun
  | stop => cases h

/-- Settles O44: a success loads the frame its operands give. -/
theorem loadingOverwritesTheSlot : Obligations.LoadingOverwritesTheSlot :=
  fun _ _ _ g b hi h hr => exec_loaded (loadsFrame_iff.mpr hi) h hr g b

/-- Settles O46: the failed load left `FR` and `FV` as they were, and nothing else persists. -/
theorem failedLoadLeavesTheOldFrame : Obligations.FailedLoadLeavesTheOldFrame := by
  intro i j s t e q hs hv _ h hr _
  obtain rfl := (exec_next h).raised hr
  obtain ⟨u, hu⟩ := exec_answers (s := { s with request := q }) j hs.fr_some
  obtain ⟨v, r, hv, hfr, hfv, hur, hvr⟩ := exec_agree (s := { s with request := q })
    (s' := { s.respond (.err e) with request := q }) rfl rfl rfl rfl hu
  exact ⟨u, v, r, hu, hv, hur, hvr, hfr, hfv⟩

end Sys2Proof.Machine
end

section
/-! PROOFS. The order of errors (60_exceptions.md R173) and the capacity bound (20_memory.md R41): each kind of error is
reported when none before it in the order applies, and without one the command succeeds. -/

namespace Sys2Proof.Machine
open Sys2Proof

variable {s t : State} {i : Instr} {e : ErrorKind}

/-! ## The capacity of operands -/

/-- A buffer in use that is too long comes before every other error of the command (R173 item 2). -/
theorem exec_operandTooLong (h : operandTooLong i s) : exec i s = .next (s.respond (.err .capacityError)) := by
  cases hb : i.usesB with
  | true =>
    refine exec_capacity_of_usesB hb (h.imp ?_ ?_)
    · exact fun ⟨_, hlen⟩ => hlen
    · exact fun ⟨_, hlen⟩ => hlen
  | false =>
    have ha : i.usesA = true ∧ s.params.maxLen < s.request.a.length := by simpa [operandTooLong, hb] using h
    obtain ⟨ha, hlen⟩ := ha
    cases i with
    | fwiDec => exact exec_fwiDec_capacity hlen
    | crc => exact exec_crc_capacity hlen
    | rev => exact exec_rev_capacity hlen
    | build | parse | encodeFile | decodeFile => cases hb
    | fwiEnc | serialize | original | frReadToken | frReadTlen | frReadNlen | frReadWdig | frReadHdig | frReadTdig
    | frReadHseg | frReadTseg => cases ha

theorem a_fits_of_usesA (h : ¬ operandTooLong i s) (ha : i.usesA = true) : s.request.a.length ≤ s.params.maxLen :=
  Nat.not_lt.mp fun hlen => h (.inl ⟨ha, hlen⟩)

theorem b_fits_of_usesB (h : ¬ operandTooLong i s) (hb : i.usesB = true) : s.request.b.length ≤ s.params.maxLen :=
  Nat.not_lt.mp fun hlen => h (.inr ⟨hb, hlen⟩)

/-- Settles O23: both commands use both buffers. -/
theorem parsingChecksBothOperandLengths : Obligations.ParsingChecksBothOperandLengths :=
  fun _ h => ⟨exec_capacity_of_usesB rfl h, exec_capacity_of_usesB rfl h⟩

/-- Of the effects a command can have, those that return bytes return no more than `MAX_LEN`. -/
theorem Effect.bytes_fit {r : Bytes} (h : Effect i s t) (hr : t.responses = s.responses ++ [.ok (.bytes r)]) :
    r.length ≤ s.params.maxLen := by
  rcases h with ⟨e, rfl⟩ | ⟨-, -, res, rfl, hfits⟩ | ⟨-, f, -, rfl, -⟩ | ⟨-, -, r', rfl, hfits⟩
  · simp at hr
  · exact hfits r (by simpa using hr)
  · simp at hr
  · obtain rfl : r' = r := by simpa using hr
    exact hfits

/-- Settles O40: the bound on each effect, and the check every command in use of a buffer makes first. -/
theorem capacityBoundsOperandsAndResults : Obligations.CapacityBoundsOperandsAndResults :=
  ⟨fun _ _ _ _ h hr => (exec_next h).bytes_fit hr, fun _ _ h => exec_operandTooLong h⟩

/-! ## Results without an error -/

/-- With no error of SERIALIZE's own both lengths fit 4 bytes. -/
theorem serialize_of_no_ownError {f : Frame} (hf : s.fr = some f) (hwf : f.WellFormed)
    (hown : ∀ e, ¬ ownError .serialize s e) :
    ∃ w, serialize f = .ok w ∧ w.length = 62 + f.tokenLength + f.tailLength := by
  have hfits : ¬ (0xFFFFFFFF < f.tokenLength ∨ 0xFFFFFFFF < f.tailLength) :=
    fun hbig => hown .encodingError ⟨rfl, f, hf, hbig⟩
  exact serialize_wellFormed hwf (by omega) (by omega)

/-- With no error of ENCODE_FILE's own the original has a head and both lengths fit 4 bytes. -/
theorem serialize_build_of_no_ownError (hown : ∀ e, ¬ ownError .encodeFile s e) :
    32 ≤ s.request.a.length ∧ ∃ w, serialize (frameOf s.request.a s.request.b) = .ok w ∧
      w.length = 30 + s.request.b.length + s.request.a.length := by
  have ho : 32 ≤ s.request.a.length := Nat.not_lt.mp fun hshort => hown .formatError (.inl ⟨rfl, hshort⟩)
  have hfits : ¬ (0xFFFFFFFF < s.request.b.length ∨ 0xFFFFFFFF < s.request.a.length - 32) :=
    fun hbig => hown .encodingError (.inr ⟨rfl, ho, hbig⟩)
  exact ⟨ho, serialize_frameOf ho (by omega) (by omega)⟩

/-- In a state the invariant allows each FR_READ of a frame succeeds, since it returns its field (R141). -/
theorem exec_frRead_succeeds {f : Frame} (hs : s.Inv) (hv : s.fv = true) (hf : s.fr = some f)
    (hn : i.needsFrame = true) (hc : i.consumesFrame = false) :
    ∃ res t, exec i s = .next t ∧ t.responses = s.responses ++ [.ok res] := by
  obtain ⟨-, -, hreads⟩ := frReadReturnsTheField
  obtain ⟨-, hread⟩ := hreads s hs
  obtain ⟨htoken, ⟨_, -, htlen⟩, ⟨_, -, hnlen⟩, hwdig, hhdig, htdig, hhseg, htseg⟩ := hread f hv hf
  cases i with
  | frReadToken => exact ⟨_, _, htoken, rfl⟩
  | frReadTlen => exact ⟨_, _, htlen, rfl⟩
  | frReadNlen => exact ⟨_, _, hnlen, rfl⟩
  | frReadWdig => exact ⟨_, _, hwdig, rfl⟩
  | frReadHdig => exact ⟨_, _, hhdig, rfl⟩
  | frReadTdig => exact ⟨_, _, htdig, rfl⟩
  | frReadHseg => exact ⟨_, _, hhseg, rfl⟩
  | frReadTseg => exact ⟨_, _, htseg, rfl⟩
  | serialize | original => cases hc
  | fwiEnc | fwiDec | crc | rev | build | parse | encodeFile | decodeFile => cases hn

/-! ## A command past its first checks -/

section
variable (hcap : ¬ operandTooLong i s) (hframe : ¬ (i.needsFrame = true ∧ s.fv = false))

include hframe in
theorem fv_of_needsFrame (hn : i.needsFrame = true) : s.fv = true := by
  cases hv : s.fv with
  | true => rfl
  | false => exact absurd ⟨hn, hv⟩ hframe

include hcap hframe

/-- Its own errors come next, in the order its rule lists them (R173 item 4). -/
theorem exec_ownError (h : ownError i s e) : exec i s = .next (s.respond (.err e)) := by
  cases i with
  | fwiEnc =>
    obtain ⟨rfl, hbig⟩ := h
    exact exec_fwiEnc_tooBig hbig
  | fwiDec =>
    obtain ⟨rfl, hlong⟩ := h
    exact exec_fwiDec_tooLong hlong (a_fits_of_usesA hcap rfl)
  | build =>
    obtain ⟨rfl, hshort⟩ := h
    exact exec_build_short (a_fits_of_usesA hcap rfl) (b_fits_of_usesB hcap rfl) hshort
  | serialize =>
    obtain ⟨rfl, f, hf, hbig⟩ := h
    exact exec_serialize_tooBig (fv_of_needsFrame hframe rfl) hf hbig
  | parse =>
    obtain ⟨rfl, hreject⟩ := h
    exact exec_parse_rejected (a_fits_of_usesA hcap rfl) (b_fits_of_usesB hcap rfl) hreject
  | decodeFile =>
    obtain ⟨rfl, hreject⟩ := h
    exact exec_decodeFile_rejected (a_fits_of_usesA hcap rfl) (b_fits_of_usesB hcap rfl) hreject
  | encodeFile =>
    rcases h with ⟨rfl, hshort⟩ | ⟨rfl, hlong, hbig⟩
    · exact exec_encodeFile_short (a_fits_of_usesA hcap rfl) (b_fits_of_usesB hcap rfl) hshort
    · exact exec_encodeFile_tooBig (a_fits_of_usesA hcap rfl) (b_fits_of_usesB hcap rfl) hlong hbig
  | crc | rev | original | frReadToken | frReadTlen | frReadNlen | frReadWdig | frReadHdig | frReadTdig | frReadHseg
  | frReadTseg => exact h.elim

variable (hs : s.Inv) (hown : ∀ e, ¬ ownError i s e)
include hs hown

/-- Then the length of the result (R173 item 5). -/
theorem exec_resultTooLong (h : resultTooLong i s) : exec i s = .next (s.respond (.err .capacityError)) := by
  rcases h with ⟨rfl, f, hf, hlong⟩ | ⟨rfl, hlong⟩
  · have hv := fv_of_needsFrame hframe rfl
    obtain ⟨hwf, -⟩ := hs.wellFormed_fitsIn hv hf
    obtain ⟨w, hw, hlength⟩ := serialize_of_no_ownError hf hwf hown
    exact exec_serialize_tooLong hv hf hw (hlong.trans_eq hlength.symm)
  · obtain ⟨ho, w, hw, hlength⟩ := serialize_build_of_no_ownError hown
    rw [exec_encodeFile_serialized (a_fits_of_usesA hcap rfl) (b_fits_of_usesB hcap rfl) ho hw]
    exact returnBytes_tooLong (hlong.trans_eq hlength.symm)

/-- And with no error left the command succeeds. -/
theorem exec_succeeds (h : ¬ resultTooLong i s) :
    ∃ res t, exec i s = .next t ∧ t.responses = s.responses ++ [.ok res] := by
  have hlegal : s.params.Legal := hs.1
  cases hn : i.needsFrame with
  | true =>
    have hv := fv_of_needsFrame hframe hn
    obtain ⟨f, hf⟩ := hs.fr_some hv
    cases hc : i.consumesFrame with
    | false => exact exec_frRead_succeeds hs hv hf hn hc
    | true =>
      rcases consumesFrame_iff.mp hc with rfl | rfl
      · obtain ⟨hwf, -⟩ := hs.wellFormed_fitsIn hv hf
        obtain ⟨w, hw, hlength⟩ := serialize_of_no_ownError hf hwf hown
        have hfits : w.length ≤ s.params.maxLen := by
          rw [hlength]
          exact Nat.not_lt.mp fun hlong => h (.inl ⟨rfl, f, hf, hlong⟩)
        exact ⟨_, _, exec_serialize_fits hv hf hw hfits, rfl⟩
      · exact ⟨_, _, exec_original_fits hv hf (hs.original_length_le hv hf), rfl⟩
  | false =>
    have ha := a_fits_of_usesA hcap
    have hb := b_fits_of_usesB hcap
    cases i with
    | fwiEnc => exact ⟨_, _, exec_fwiEnc_fits hlegal (Nat.not_lt.mp fun hbig => hown _ ⟨rfl, hbig⟩), rfl⟩
    | fwiDec => exact ⟨_, _, exec_fwiDec_fits hlegal (Nat.not_lt.mp fun hlong => hown _ ⟨rfl, hlong⟩), rfl⟩
    | crc => exact ⟨_, _, exec_crc_fits hlegal (ha rfl), rfl⟩
    | rev => exact ⟨_, _, exec_rev_fits (ha rfl), rfl⟩
    | build =>
      exact ⟨_, _, exec_build_fits (ha rfl) (hb rfl) (Nat.not_lt.mp fun hshort => hown _ ⟨rfl, hshort⟩), rfl⟩
    | parse =>
      exact ⟨_, _, exec_parse_accepted (ha rfl) (hb rfl) (not_not.mp fun hreject => hown _ ⟨rfl, hreject⟩), rfl⟩
    | decodeFile =>
      exact ⟨_, _, exec_decodeFile_accepted (ha rfl) (hb rfl) (not_not.mp fun hreject => hown _ ⟨rfl, hreject⟩), rfl⟩
    | encodeFile =>
      obtain ⟨ho, w, hw, hlength⟩ := serialize_build_of_no_ownError hown
      have hfits : w.length ≤ s.params.maxLen := by
        rw [hlength]
        exact Nat.not_lt.mp fun hlong => h (.inr ⟨rfl, hlong⟩)
      exact ⟨_, _, (exec_encodeFile_serialized (ha rfl) (hb rfl) ho hw).trans (returnBytes_fits hfits), rfl⟩
    | serialize | original | frReadToken | frReadTlen | frReadNlen | frReadWdig | frReadHdig | frReadTdig
    | frReadHseg | frReadTseg => cases hn

end

/-- Settles O39: the errors in the order of R173. -/
theorem firstApplyingErrorIsReported : Obligations.FirstApplyingErrorIsReported := by
  intro i s hs
  refine ⟨fun e he => ?_, fun hnone => ?_⟩
  · rcases he with ⟨hlong, rfl⟩ | ⟨-, hn, hv, rfl⟩ | ⟨hcap, hframe, hown⟩ | ⟨hcap, hframe, hown, hlong, rfl⟩
    · exact exec_operandTooLong hlong
    · exact exec_noFrame hn hv
    · exact exec_ownError hcap hframe hown
    · exact exec_resultTooLong hcap hframe hs hown hlong
  · have hcap : ¬ operandTooLong i s := fun h => hnone _ (.inl ⟨h, rfl⟩)
    have hframe : ¬ (i.needsFrame = true ∧ s.fv = false) :=
      fun ⟨hn, hv⟩ => hnone _ (.inr (.inl ⟨hcap, hn, hv, rfl⟩))
    have hown : ∀ e, ¬ ownError i s e := fun e h => hnone e (.inr (.inr (.inl ⟨hcap, hframe, h⟩)))
    exact exec_succeeds hcap hframe hs hown fun h => hnone _ (.inr (.inr (.inr ⟨hcap, hframe, hown, h, rfl⟩)))

end Sys2Proof.Machine
end

section
/-! PROOFS. The whole machine: the frame of every command, the hazards of consuming a frame, the invariant over a step
and over a run (10_state.md section 1, 20_memory.md R50, 70_reset_and_hazards.md R191, R194). -/

namespace Sys2Proof.Machine
open Sys2Proof

variable {s t : State} {i : Instr}

/-! ## The frame of a command -/

/-- What every effect leaves unchanged, and the one response it appends. -/
theorem Effect.unchanged (h : Effect i s t) : t.params = s.params ∧ t.request = s.request ∧ t.inputs = s.inputs ∧
    ∃ r, t.responses = s.responses ++ [r] := by
  rcases h with ⟨e, rfl⟩ | ⟨-, -, res, rfl, -⟩ | ⟨-, f, -, rfl, -⟩ | ⟨-, -, r, rfl, -⟩
  all_goals exact ⟨rfl, rfl, rfl, _, rfl⟩

/-- What an effect does to the frame register, by the kind of the command. -/
theorem Effect.frame (h : Effect i s t) : (t.fr = s.fr ∧ t.fv = s.fv) ∨
    (i.loadsFrame = true ∧ ∃ f, t.fr = some f ∧ t.fv = true) ∨
    (i.consumesFrame = true ∧ t.fr = none ∧ t.fv = false) := by
  rcases h with ⟨e, rfl⟩ | ⟨-, -, res, rfl, -⟩ | ⟨hl, f, -, rfl, -⟩ | ⟨hc, -, r, rfl, -⟩
  · exact .inl ⟨rfl, rfl⟩
  · exact .inl ⟨rfl, rfl⟩
  · exact .inr (.inl ⟨hl, f, rfl, rfl⟩)
  · exact .inr (.inr ⟨hc, rfl, rfl⟩)

/-- Settles O35: each effect loads, consumes or leaves the frame as the command may. -/
theorem commandsChangeOnlyWhatTheyWrite : Obligations.CommandsChangeOnlyWhatTheyWrite := by
  intro i s t h
  obtain ⟨hparams, hrequest, hinputs, hresponse⟩ := (exec_next h).unchanged
  refine ⟨hparams, hrequest, hinputs, hresponse, fun hi => ?_, fun hi => ?_, fun hb hp hs ho => ?_⟩
  · have hc : i.consumesFrame = false := consumesFrame_of_loadsFrame (loadsFrame_iff.mpr hi)
    rcases (exec_next h).frame with hsame | ⟨-, hload⟩ | ⟨hc', -⟩
    · exact .inl hsame
    · exact .inr hload
    · simp [hc] at hc'
  · have hl : i.loadsFrame = false := loadsFrame_of_consumesFrame (consumesFrame_iff.mpr hi)
    rcases (exec_next h).frame with hsame | ⟨hl', -⟩ | ⟨-, hempty⟩
    · exact .inl hsame
    · simp [hl] at hl'
    · exact .inr hempty
  · rcases (exec_next h).frame with hsame | ⟨hl, -⟩ | ⟨hc, -⟩
    · exact hsame
    · exact absurd (loadsFrame_iff.mp hl) (not_or.mpr ⟨hb, hp⟩)
    · exact absurd (consumesFrame_iff.mp hc) (not_or.mpr ⟨hs, ho⟩)

/-! ## Frames that are gone, and frames that appear -/

/-- Settles O45: the success left `FV = 0`, and the command that follows finds it so whatever its request. -/
theorem consumedFrameIsGone : Obligations.ConsumedFrameIsGone := by
  intro i j s t r q hi h hr hok hj
  cases r with
  | err e => cases hok
  | ok res =>
    rw [(exec_next h).consumed (consumesFrame_iff.mpr hi) hr]
    exact exec_noFrame hj rfl

/-- Of the effects from `FV = 0` only loading a frame sets it. -/
theorem Effect.fv_set (h : Effect i s t) (hv : s.fv = false) (ht : t.fv = true) :
    i.loadsFrame = true ∧ t.responses = s.responses ++ [.ok .none] := by
  rcases h with ⟨e, rfl⟩ | ⟨-, -, res, rfl, -⟩ | ⟨hl, f, -, rfl, -⟩ | ⟨-, hv', -⟩
  · simp [hv] at ht
  · simp [hv] at ht
  · exact ⟨hl, rfl⟩
  · simp [hv] at hv'

/-- Settles O47: of all steps from `FV = 0` only that of a successful BUILD or PARSE sets it, and a word that decodes to
a command is its encoding. -/
theorem noFrameUntilALoadSucceeds : Obligations.NoFrameUntilALoadSucceeds := by
  intro s t hv h ht
  rcases step_next h with ⟨-, rfl⟩ | ⟨rest, -, rfl⟩ | ⟨r, rest, hi, ⟨i, hd, h⟩ | ⟨why, -, rfl⟩⟩
  · simp [hv] at ht
  · simp at ht
  · obtain ⟨hl, hresponse⟩ := (exec_next h).fv_set hv ht
    have hcmd : r.cmd = encode .build ∨ r.cmd = encode .parse := by
      rw [eq_encode_of_decode hd]
      exact (loadsFrame_iff.mp hl).imp (congrArg encode) (congrArg encode)
    exact ⟨r, rest, hi, hcmd, hresponse⟩
  · simp [hv] at ht

/-! ## The digests of frames in the register -/

/-- The only success of BUILD loads the frame of its operands (R131). -/
theorem exec_build_loaded {res : Result} (h : exec .build s = .next t) (hr : t.responses = s.responses ++ [.ok res]) :
    32 ≤ s.request.a.length ∧ t = (s.loadFrame (frameOf s.request.a s.request.b)).respond (.ok .none) := by
  by_cases hlong : s.params.maxLen < s.request.a.length ∨ s.params.maxLen < s.request.b.length
  · cases (exec_capacity_of_usesB rfl hlong).symm.trans h
    simp at hr
  have ha : s.request.a.length ≤ s.params.maxLen := by omega
  have hb : s.request.b.length ≤ s.params.maxLen := by omega
  rcases Nat.lt_or_ge s.request.a.length 32 with hshort | ho
  · cases (exec_build_short ha hb hshort).symm.trans h
    simp at hr
  · cases (exec_build_fits ha hb ho).symm.trans h
    exact ⟨ho, rfl⟩

/-- A block right after reset, about to parse a frame of 62 zero bytes. -/
def parsingZeros : State :=
  { State.resetWith { strictFraming := false, trailingPolicy := .reject, maxLen := 62 } with
    request := { Request.blank with a := zeros 62 } }

theorem parsingZeros_accepted : ParseAccepts parsingZeros.params parsingZeros.request.a := by
  rw [parseAccepts_iff]
  decide

/-- The head digest in those bytes is zero, and that of 32 zero bytes is not. -/
theorem headDigest_zeros_ne : (frameAt (zeros 62)).headDigest ≠ digest (rev (frameAt (zeros 62)).headSegment) := by
  decide

/-- Settles O48: BUILD computes the digests of what it stores, and PARSE takes those of a buffer of zero bytes as they
are. -/
theorem builtFramesCarryTrueDigests : Obligations.BuiltFramesCarryTrueDigests := by
  refine ⟨fun s t h hr => ?_, fun s t h hr => ?_, ?_⟩
  · obtain ⟨ho, rfl⟩ := exec_build_loaded h hr
    exact ⟨_, rfl, frameOf_wellFormed _ _ ho, frameOf_tailLength _ _, rfl, congrArg digest (rev_rev _).symm,
      congrArg digest (rev_rev _).symm⟩
  · obtain ⟨f, hwf, rfl⟩ := (exec_next h).loaded rfl hr
    exact ⟨f, rfl, hwf⟩
  · exact ⟨parsingZeros, _, _, ⟨by decide, nofun, fun _ => rfl⟩,
      exec_parse_accepted (by decide) (by decide) parsingZeros_accepted, rfl, rfl, headDigest_zeros_ne⟩

/-! ## A step -/

/-- Settles O51: a command keeps the invariant by each of its effects, and a reset empties the register. -/
theorem everyStepKeepsTheInvariant : Obligations.EveryStepKeepsTheInvariant := fun _ _ => step_inv

/-- Settles O50: with `FV = 0` and no value in `FR` only the parameters are left to check. -/
theorem invariantHoldsAtReset : Obligations.InvariantHoldsAtReset := by
  have hreset : ∀ p : Params, p.Legal → (State.resetWith p).Inv := fun p hp => ⟨hp, nofun, fun _ => rfl⟩
  exact ⟨hreset, hreset _ (by decide)⟩

/-- Settles O49: no effect of a command writes the parameters, and no other step does. -/
theorem parametersNeverChange : Obligations.ParametersNeverChange := by
  intro s t h
  rcases step_next h with ⟨-, rfl⟩ | ⟨rest, -, rfl⟩ | ⟨r, rest, -, ⟨i, -, h⟩ | ⟨why, -, rfl⟩⟩
  · rfl
  · rfl
  · obtain ⟨hparams, -⟩ := (exec_next h).unchanged
    exact hparams
  · rfl

/-- A step that takes a request, in a state the invariant allows, takes just that one and answers it once. -/
theorem step_request_answers {r : Request} {rest : List PortInput} (hs : s.Inv) (hi : s.inputs = .request r :: rest) :
    ∃ t, step s = .next t ∧ t.inputs = rest ∧ ∃ resp, t.responses = s.responses ++ [resp] := by
  cases hd : decode r.cmd with
  | error why => exact ⟨_, step_illegal hi hd, rfl, _, rfl⟩
  | ok i =>
    obtain ⟨t, ht⟩ := exec_answers (s := s.accept r rest) i hs.fr_some
    obtain ⟨-, -, hinputs, hresponse⟩ := (exec_next ht).unchanged
    exact ⟨t, (step_request hi hd).trans ht, hinputs, hresponse⟩

/-- Settles O52: idle, by a reset, or by the answer to a request. -/
theorem everyStepAnswers : Obligations.EveryStepAnswers := by
  intro s hs
  match hi : s.inputs with
  | [] => exact ⟨s, step_idle hi, nofun⟩
  | .reset :: rest => exact ⟨_, step_reset hi, nofun⟩
  | .request r :: rest =>
    obtain ⟨t, ht, hinputs, hresponse⟩ := step_request_answers hs hi
    exact ⟨t, ht, fun r' rest' h => by cases h; exact ⟨hinputs, hresponse⟩⟩

/-! ## A run -/

section
variable {M : Host.Core} {x y : M.State} {k : Nat}

/-- A run of at least one step is a step, and the run of the rest if it answers. -/
theorem run_succ (h : M.step x = .next y) : M.run (k + 1) x = M.run k y := by
  rw [Host.Core.run, h]

theorem step_of_run_succ (h : M.run (k + 1) x = .next y) : ∃ z, M.step x = .next z ∧ M.run k z = .next y := by
  cases hstep : M.step x with
  | next z => exact ⟨z, rfl, (run_succ hstep).symm.trans h⟩
  | fault r =>
    rw [Host.Core.run, hstep] at h
    cases h
  | refused r =>
    rw [Host.Core.run, hstep] at h
    cases h

end

/-- The invariant answers every input: all are taken, and each request is answered once. -/
theorem run_answers (xs : List PortInput) (hs : s.Inv) (hi : s.inputs = xs) :
    ∃ t rs, core.run xs.length s = .next t ∧ t.Inv ∧ t.inputs = [] ∧ t.responses = s.responses ++ rs ∧
      rs.length = requestCount xs := by
  induction xs generalizing s with
  | nil => exact ⟨s, [], rfl, hs, hi, (List.append_nil _).symm, rfl⟩
  | cons x xs ih =>
    cases x with
    | reset =>
      have hstep := step_reset hi
      obtain ⟨t, rs, hrun, hinv, hinputs, hresponses, hcount⟩ := ih (step_inv hs hstep) rfl
      exact ⟨t, rs, (run_succ hstep).trans hrun, hinv, hinputs, hresponses, hcount⟩
    | request r =>
      obtain ⟨u, hstep, hu, resp, hresp⟩ := step_request_answers hs hi
      obtain ⟨t, rs, hrun, hinv, hinputs, hresponses, hcount⟩ := ih (step_inv hs hstep) hu
      refine ⟨t, resp :: rs, (run_succ hstep).trans hrun, hinv, hinputs, ?_, by simp [requestCount, hcount]⟩
      rw [hresponses, hresp, List.append_assoc, List.singleton_append]

/-- The same state with more inputs to come after those it has. -/
abbrev State.withMore (s : State) (more : List PortInput) : State := { s with inputs := s.inputs ++ more }

theorem exec_withMore (more : List PortInput) (h : exec i s = .next t) :
    exec i (s.withMore more) = .next (t.withMore more) := by
  obtain ⟨d, -, hd, hsame⟩ := exec_verdict i s
  rw [hsame (s.withMore more) ⟨rfl, fun _ => rfl, fun _ => rfl, fun _ => rfl, fun _ => rfl, fun _ => rfl⟩]
  exact Verdict.apply_withInputs more (hd.symm.trans h)

/-- A step that has an input to take takes it, whatever comes after. -/
theorem step_withMore {x : PortInput} {rest : List PortInput} (more : List PortInput) (hi : s.inputs = x :: rest)
    (h : step s = .next t) : t.inputs = rest ∧ step (s.withMore more) = .next (t.withMore more) := by
  have hmore : (s.withMore more).inputs = x :: (rest ++ more) := by rw [State.withMore, hi, List.cons_append]
  cases x with
  | reset =>
    cases (step_reset hi).symm.trans h
    exact ⟨rfl, step_reset hmore⟩
  | request r =>
    cases hd : decode r.cmd with
    | error why =>
      cases (step_illegal hi hd).symm.trans h
      exact ⟨rfl, step_illegal hmore hd⟩
    | ok i =>
      rw [step_request hi hd] at h
      obtain ⟨-, -, hinputs, -⟩ := (exec_next h).unchanged
      exact ⟨hinputs, (step_request hmore hd).trans (exec_withMore more h)⟩

theorem run_withMore (more : List PortInput) (k : Nat) (hk : k ≤ s.inputs.length) (h : core.run k s = .next t) :
    core.run k (s.withMore more) = .next (t.withMore more) := by
  induction k generalizing s with
  | zero =>
    cases h
    rfl
  | succ k ih =>
    obtain ⟨u, hstep, hrun⟩ := step_of_run_succ h
    obtain ⟨x, rest, hi⟩ := List.exists_cons_of_length_pos (Nat.lt_of_lt_of_le k.succ_pos hk)
    obtain ⟨hu, hstep'⟩ := step_withMore more hi hstep
    have hk' : k ≤ u.inputs.length := by
      rw [hu]
      simpa [hi] using hk
    exact (run_succ hstep').trans (ih hk' hrun)

/-- Settles O53: by induction on the inputs, and on the number of steps. -/
theorem everyRequestIsAnsweredInOrder : Obligations.EveryRequestIsAnsweredInOrder :=
  fun s hs => ⟨run_answers s.inputs hs rfl, fun k more _ hk h => run_withMore more k hk h⟩

end Sys2Proof.Machine
end
